-- ==== Sys2Proof/Word.lean ====
section
/-! DEFINITION. The word and byte types of SPI-TE: every register access is 32 bits, every buffer access is 8 bits
(spec/20_memory.md R100). -/

namespace Sys2Proof

/-- One 32-bit word: a register value, a command word, a counter (R10: REG_WIDTH, COUNT_WIDTH). -/
abbrev Word := BitVec 32

/-- One byte: a FIFO entry, a buffer byte (R10: DATA_WIDTH). -/
abbrev Byte := BitVec 8

end Sys2Proof
end

