-- ==== Sys2Proof/Config.lean ====
section
/-! DEFINITION. What an implementation fixes (the decided constants of spec/00_scope.md R10 and spec/30_encoding.md), the
parameters the spec leaves OPEN, and the free values. The `opaque` constants have no body: nothing can prove a value of one. -/

namespace Sys2Proof

/-- The two readings of "the final byte count" (R235). -/
inductive CompleteCount where
  | zero
  | total
  deriving DecidableEq, Repr, Inhabited

/-- Which step comes next where more than one agent could step (R33, R290), with the bytes the far end draws (R296).
A drawn step that is not enabled leaves the step to the sequencer (notes/assumptions/2.md). -/
inductive Move where
  /-- a line of the Handler when it is active, else a step of the Host -/
  | sequencer
  /-- a master exchange (R291), with the byte the slave answers -/
  | masterExchange (response : Byte)
  /-- a slave exchange (R292), with the byte an underrun sends and the byte the external master sends -/
  | slaveExchange (idle master : Byte)
  /-- a mode fault (R294) -/
  | modeFault
  /-- the platform starts the Handler (R300) -/
  | handlerStart
  deriving DecidableEq, Repr, Inhabited

namespace Config

/-- OPEN (R10, R11): `FIFO_DEPTH` is one more than this, so that it is at least 1. -/
opaque fifoDepthPred : Nat

/-- OPEN (R10, R12): `SS_LINES` is one more than this, so that it is 1 to 4. -/
opaque ssLinesPred : Fin 4

/-- OPEN (R10, R235): `COMPLETE_COUNT`. -/
opaque completeCount : CompleteCount

/-- OPEN (R10, R301): `IRQ_CONNECTED`. -/
opaque irqConnected : Bool

/-- FREE VALUE (R290, R296): the moves drawn once `State.schedule` is used up, by the draw counter. -/
opaque oracle : Nat → Move

/-- FREE VALUE (R95): the byte a read of an empty RX FIFO returns, by the draw counter. -/
opaque emptyRxByte : Nat → Byte

/-- FREE VALUE (R91, R94): what a read of `IER`, `IDR` or `TXD` returns, by the draw counter. -/
opaque writeOnlyRead : Nat → Word

/-- `SS_NONE`: "deselect all" and "none selected" (R10, D8). -/
def ssNone : Word := 15#32

/-- `SS_ALL_HIGH`: the `SS` value that deselects every line (R141). -/
def ssAllHigh : BitVec 4 := 0xF#4

/-- `CR_RESET`, the control register's post-reset value (R10, R136). -/
def crReset : Word := 0x00020000#32

/-- The bits of `CR` that are stored: 17 and 15:0 (R89, R135). -/
def crStoredMask : Word := 0x0002FFFF#32

/-- Field masks of `CR` (R135). -/
def ssMask : Word := 0x00003C00#32
def manualCsMask : Word := 0x00004000#32
def manstrtEnMask : Word := 0x00008000#32
def manstrtMask : Word := 0x00010000#32
def mstrenMask : Word := 0x00000001#32

/-- `SS_SHIFT` (R135). -/
def ssShift : Nat := 10

/-- One-bit masks of the status bits (R140). -/
def bRxovr : Word := 0x01#32
def bModf : Word := 0x02#32
def bTxrdy : Word := 0x04#32
def bTxfull : Word := 0x08#32
def bRxne : Word := 0x10#32
def bRxfull : Word := 0x20#32
def bTxuf : Word := 0x40#32

/-- `W1C_ALL`: every write-1-to-clear bit of `SR` (R141). -/
def w1cAll : Word := 0x43#32

/-- `IRQ_XFER`: the sources a transfer start unmasks (R141). -/
def irqXfer : Word := 0x47#32

/-- `REG_BLOCK_SIZE` (R331). -/
def regBlockSize : Nat := 0x100

/-- The first address past the 32-bit address space (R80, R189). -/
def addressLimit : Nat := 2 ^ 32

/-- Register offsets (R133). -/
def offCr : Word := 0x00#32
def offSr : Word := 0x04#32
def offIer : Word := 0x08#32
def offIdr : Word := 0x0C#32
def offImr : Word := 0x10#32
def offEr : Word := 0x14#32
def offTxd : Word := 0x1C#32
def offRxd : Word := 0x20#32

/-- Status values a command returns (R145). -/
def success : Word := 0#32
def alreadyStarted : Word := 5#32
def deviceBusy : Word := 21#32

/-- What a byte of buffer memory that nothing has written reads as. DESIGN CHOICE (notes/assumptions/7.md), unsafe: the spec
gives buffer memory no initial contents. -/
def unwrittenByte : Byte := 0#8

end Config
end Sys2Proof
end

