-- ==== Sys2Proof/Syntax.lean ====
section
/-! DEFINITION. The ten commands of spec/opcode_table.json (spec/30_encoding.md R125) with their operands (R124). -/

namespace Sys2Proof

/-- One constructor per row of the opcode table. `txv` and `rxv` are the buffer-present bits of the command word; the buffer
words stand beside them as the encoding has them (R122, R124). -/
inductive Instr where
  /-- `INIT base` (R270) -/
  | init (base : Word)
  /-- `SET_STATUS_HANDLER handler, ctx` (R275) -/
  | setStatusHandler (handler ctx : Word)
  /-- `SET_SS idx` (R162) -/
  | setSs (idx : BitVec 8)
  /-- `GET_SS` (R165) -/
  | getSs
  /-- `POLLED_TRANSFER send, recv, count` (R200) -/
  | polledTransfer (txv rxv : Bool) (send recv count : Word)
  /-- `TRANSFER send, recv, count` (R220) -/
  | transfer (txv rxv : Bool) (send recv count : Word)
  /-- `ABORT` (R260) -/
  | abort
  /-- `RESET` (R265) -/
  | reset
  /-- `CONFIGURE opts` (R280): bit 0 MASTER, bit 1 MANUAL_CS, bit 2 MANUAL_START -/
  | configure (opts : BitVec 3)
  /-- `IRQ` (R225), issued by the platform only -/
  | irq
  deriving DecidableEq, Repr

/-- The command names, as the trace and the opcode map use them (R125). -/
inductive Command where
  | init
  | setStatusHandler
  | setSs
  | getSs
  | polledTransfer
  | transfer
  | abort
  | reset
  | configure
  | irq
  deriving DecidableEq, Repr

/-- Which command an instruction is. -/
def Instr.command : Instr → Command
  | .init _ => .init
  | .setStatusHandler _ _ => .setStatusHandler
  | .setSs _ => .setSs
  | .getSs => .getSs
  | .polledTransfer _ _ _ _ _ => .polledTransfer
  | .transfer _ _ _ _ _ => .transfer
  | .abort => .abort
  | .reset => .reset
  | .configure _ => .configure
  | .irq => .irq

/-- `NARGS` of the command map (R125): how many argument words follow the command word. -/
def Command.nargs : Command → Nat
  | .init => 1
  | .setStatusHandler => 2
  | .setSs => 0
  | .getSs => 0
  | .polledTransfer => 3
  | .transfer => 3
  | .abort => 0
  | .reset => 0
  | .configure => 0
  | .irq => 0

end Sys2Proof
end

