-- ==== Sys2Proof/WellFormed.lean ====
section
/-! DEFINITION. Which instructions have an encoding (spec/30_encoding.md R126): a buffer word whose valid bit is 0 must be 0.
Every other operand has exactly the width of its field, so no further check is needed. -/

namespace Sys2Proof

/-- A buffer word is 0 unless its valid bit is set (R126). -/
def bufferWordOk (valid : Bool) (word : Word) : Bool :=
  valid || word == 0#32

/-- The check of an instruction's operands (R126). -/
def Instr.wellFormed : Instr → Bool
  | .init _ => true
  | .setStatusHandler _ _ => true
  | .setSs _ => true
  | .getSs => true
  | .polledTransfer txv rxv send recv _ => bufferWordOk txv send && bufferWordOk rxv recv
  | .transfer txv rxv send recv _ => bufferWordOk txv send && bufferWordOk rxv recv
  | .abort => true
  | .reset => true
  | .configure _ => true
  | .irq => true

end Sys2Proof
end

