-- ==== Sys2Proof/Decode.lean ====
section
/-! DEFINITION. Decoding and encoding the command stream (spec/30_encoding.md R120 to R127): the fields of the command word,
the decoder over words and over bytes, the opcode table, the encoder, and the host's numbering of a table word. -/

namespace Sys2Proof

/-- `OPC`, bits 7:0 of a command word (R122). -/
def cwOpc (cw : Word) : Byte := cw.extractLsb' 0 8

/-- `ARG8`, bits 15:8 (R122). -/
def cwArg8 (cw : Word) : Byte := cw.extractLsb' 8 8

/-- `TXV`, bit 16 (R122). -/
def cwTxv (cw : Word) : Bool := cw.getLsbD 16

/-- `RXV`, bit 17 (R122). -/
def cwRxv (cw : Word) : Bool := cw.getLsbD 17

/-- `RSV`, bits 31:18 (R122). -/
def cwRsv (cw : Word) : BitVec 14 := cw.extractLsb' 18 14

/-- The command of an `OPC`, none for the reserved ones: 0x00 and 0x0B to 0xFF (R125, R126). -/
def commandOfOpc (opc : Byte) : Option Command :=
  if opc = 0x01#8 then some .init
  else if opc = 0x02#8 then some .setStatusHandler
  else if opc = 0x03#8 then some .setSs
  else if opc = 0x04#8 then some .getSs
  else if opc = 0x05#8 then some .polledTransfer
  else if opc = 0x06#8 then some .transfer
  else if opc = 0x07#8 then some .abort
  else if opc = 0x08#8 then some .reset
  else if opc = 0x09#8 then some .configure
  else if opc = 0x0A#8 then some .irq
  else none

/-- The `OPC` of a command (R125). -/
def Command.opc : Command → Byte
  | .init => 0x01#8
  | .setStatusHandler => 0x02#8
  | .setSs => 0x03#8
  | .getSs => 0x04#8
  | .polledTransfer => 0x05#8
  | .transfer => 0x06#8
  | .abort => 0x07#8
  | .reset => 0x08#8
  | .configure => 0x09#8
  | .irq => 0x0A#8

/-- What the decoder answers: an instruction with the words after it, or a refusal by name (R126). -/
inductive Decoded where
  | ok (i : Instr) (rest : List Word)
  | illegalCommand
  | truncatedCommand
  deriving DecidableEq, Repr

/-- Whether `ARG8` is one the command admits: any value for `SET_SS`, bits 7:3 zero for `CONFIGURE`, else 0 (R126). -/
def arg8Ok (c : Command) (arg8 : Byte) : Bool :=
  match c with
  | .setSs => true
  | .configure => arg8.extractLsb' 3 5 == 0#5
  | _ => arg8 == 0#8

/-- Whether `TXV` and `RXV` are ones the command admits: any for the two transfers, else 0 (R126). -/
def validBitsOk (c : Command) (txv rxv : Bool) : Bool :=
  match c with
  | .polledTransfer => true
  | .transfer => true
  | _ => !txv && !rxv

/-- A decoded instruction, refused when a buffer word breaks R126. -/
def accept (i : Instr) (rest : List Word) : Decoded :=
  if i.wellFormed then .ok i rest else .illegalCommand

/-- Assembles the operands from the command word's fields and the argument words (R124, R127). -/
def decodeOperands (c : Command) (arg8 : Byte) (txv rxv : Bool) (args : List Word) : Decoded :=
  match c with
  | .init =>
    match args with
    | base :: rest => accept (.init base) rest
    | _ => .truncatedCommand
  | .setStatusHandler =>
    match args with
    | handler :: ctx :: rest => accept (.setStatusHandler handler ctx) rest
    | _ => .truncatedCommand
  | .setSs => accept (.setSs arg8) args
  | .getSs => accept .getSs args
  | .polledTransfer =>
    match args with
    | send :: recv :: count :: rest => accept (.polledTransfer txv rxv send recv count) rest
    | _ => .truncatedCommand
  | .transfer =>
    match args with
    | send :: recv :: count :: rest => accept (.transfer txv rxv send recv count) rest
    | _ => .truncatedCommand
  | .abort => accept .abort args
  | .reset => accept .reset args
  | .configure => accept (.configure (arg8.extractLsb' 0 3)) args
  | .irq => accept .irq args

/-- The decoder, in the order of its checks (R127). An empty word list, which R127 does not speak of, is refused as truncated:
DESIGN CHOICE (notes/assumptions/25.md). -/
def decode (words : List Word) : Decoded :=
  match words with
  | [] => .truncatedCommand
  | cw :: args =>
    if cwRsv cw ≠ 0#14 then .illegalCommand
    else
      match commandOfOpc (cwOpc cw) with
      | none => .illegalCommand
      | some c =>
        if arg8Ok c (cwArg8 cw) = false then .illegalCommand
        else if validBitsOk c (cwTxv cw) (cwRxv cw) = false then .illegalCommand
        else decodeOperands c (cwArg8 cw) (cwTxv cw) (cwRxv cw) args

/-- A word from its four bytes, the first the least significant (R121). -/
def wordOfBytes (b0 b1 b2 b3 : Byte) : Word :=
  b0.setWidth 32 ||| (b1.setWidth 32 <<< 8) ||| (b2.setWidth 32 <<< 16) ||| (b3.setWidth 32 <<< 24)

/-- The words of a byte stream, each little-endian (R121); fewer than four bytes at the end make no word. -/
def wordsOfBytes : List Byte → List Word
  | b0 :: b1 :: b2 :: b3 :: rest => wordOfBytes b0 b1 b2 b3 :: wordsOfBytes rest
  | _ => []

/-- The decoder over a command stream serialised as bytes (R121). -/
def decodeBytes (bytes : List Byte) : Decoded :=
  decode (wordsOfBytes bytes)

/-- A command word from its fields, `RSV` zero (R122). -/
def packWord (opc arg8 : Byte) (txv rxv : Bool) : Word :=
  opc.setWidth 32 ||| (arg8.setWidth 32 <<< 8) ||| ((BitVec.ofBool txv).setWidth 32 <<< 16)
    ||| ((BitVec.ofBool rxv).setWidth 32 <<< 17)

/-- The words of an instruction, from the encoding tables of R125 and R128. -/
def encode : Instr → List Word
  | .init base => [packWord Command.init.opc 0#8 false false, base]
  | .setStatusHandler handler ctx => [packWord Command.setStatusHandler.opc 0#8 false false, handler, ctx]
  | .setSs idx => [packWord Command.setSs.opc idx false false]
  | .getSs => [packWord Command.getSs.opc 0#8 false false]
  | .polledTransfer txv rxv send recv count => [packWord Command.polledTransfer.opc 0#8 txv rxv, send, recv, count]
  | .transfer txv rxv send recv count => [packWord Command.transfer.opc 0#8 txv rxv, send, recv, count]
  | .abort => [packWord Command.abort.opc 0#8 false false]
  | .reset => [packWord Command.reset.opc 0#8 false false]
  | .configure opts => [packWord Command.configure.opc (opts.setWidth 8) false false]
  | .irq => [packWord Command.irq.opc 0#8 false false]

/-- The four bytes of a word, little-endian (R121). -/
def bytesOfWord (w : Word) : List Byte :=
  [w.extractLsb' 0 8, w.extractLsb' 8 8, w.extractLsb' 16 8, w.extractLsb' 24 8]

/-- The bytes of an instruction (R121). -/
def encodeBytes (i : Instr) : List Byte :=
  (encode i).flatMap bytesOfWord

/-- One row of the command map (R125): the fixed bits of the command word. -/
structure OpcodeRow where
  command : Command
  fixed : Word
  mask : Word
  deriving DecidableEq, Repr

/-- The command map's match and mask columns (R125). -/
def opcodeTable : List OpcodeRow :=
  [⟨.init, 0x00000001#32, 0xFFFFFFFF#32⟩,
   ⟨.setStatusHandler, 0x00000002#32, 0xFFFFFFFF#32⟩,
   ⟨.setSs, 0x00000003#32, 0xFFFF00FF#32⟩,
   ⟨.getSs, 0x00000004#32, 0xFFFFFFFF#32⟩,
   ⟨.polledTransfer, 0x00000005#32, 0xFFFCFFFF#32⟩,
   ⟨.transfer, 0x00000006#32, 0xFFFCFFFF#32⟩,
   ⟨.abort, 0x00000007#32, 0xFFFFFFFF#32⟩,
   ⟨.reset, 0x00000008#32, 0xFFFFFFFF#32⟩,
   ⟨.configure, 0x00000009#32, 0xFFFFF8FF#32⟩,
   ⟨.irq, 0x0000000A#32, 0xFFFFFFFF#32⟩]

/-- A word is one of a row's command words. -/
def OpcodeRow.admits (r : OpcodeRow) (cw : Word) : Bool :=
  cw &&& r.mask == r.fixed

/-- The sixteen bytes (the longest command is four words) of a table word's `nbits` bits, every bit above them 0. -/
def tableBytes (nbits w : Nat) : List Byte :=
  (List.range 16).map fun j => BitVec.ofNat 8 ((w % 2 ^ nbits) / 2 ^ (8 * j))

/-- The instruction the decoder reads from a word numbered as spec/opcode_table.json numbers it. -/
def decodeTableWord (nbits w : Nat) : Option Instr :=
  match decodeBytes (tableBytes nbits w) with
  | .ok i _ => some i
  | .illegalCommand => none
  | .truncatedCommand => none

end Sys2Proof
end

