-- ==== Sys2Proof/Machine/State.lean ====
section
/-! DEFINITION. The state of SPI-TE as plain data (spec/10_state.md), the events of its trace (R61), the reasons a step stops
(spec/60_exceptions.md R320 to R331) and the state after reset (R62, R64, R363). -/

namespace Sys2Proof.Machine

/-- The parameters of a model that the spec leaves OPEN (R10). No step writes them. `depthPred` and `linesPred` are one less
than `FIFO_DEPTH` and `SS_LINES`, so that D >= 1 and 1 <= L <= 4 hold of every state (notes/assumptions/4.md). -/
structure Params where
  depthPred : Nat
  linesPred : Fin 4
  completeCount : CompleteCount
  irqConnected : Bool
  deriving DecidableEq, Repr

/-- The default status callback or a registered handler id (R43). -/
inductive StatusCallback where
  | stub
  | registered (id : Word)
  deriving DecidableEq, Repr

/-- The Device Instance record (R34). Cursors are exact numbers: one may equal 2^32 (R189). -/
structure Engine where
  baseAddress : Word
  isReady : Bool
  isBusy : Bool
  sendBuffer : Option Nat
  recvBuffer : Option Nat
  requestedBytes : Word
  remainingBytes : Word
  slaveSelect : BitVec 4
  statusCallback : StatusCallback
  callbackContext : Word
  totalBytes : Word
  deriving DecidableEq, Repr

/-- The register block (R50 to R55). -/
structure Dev where
  cr : Word
  rxovr : Bool
  modf : Bool
  txuf : Bool
  imr : BitVec 7
  en : Bool
  txFifo : List Byte
  rxFifo : List Byte
  startArmed : Bool
  deriving DecidableEq, Repr

/-- The two sequencers (R30). -/
inductive Agent where
  | host
  | handler
  deriving DecidableEq, Repr

/-- The lines of the sub-sequences (R180): `Fill` F1 to F7, `Drain` D1 to D7, `StartIfManual` M1 to M3, `DeassertIfManual`
C1 to C3, `AbortSeq` A2 to A9. -/
inductive SubLine where
  | f1 | f2 | f3 | f4 | f5 | f6 | f7
  | d1 | d2 | d3 | d4 | d5 | d6 | d7
  | m1 | m2 | m3
  | c1 | c2 | c3
  | a2 | a3 | a4 | a5 | a6 | a7 | a8 | a9
  deriving DecidableEq, Repr

/-- The lines of `INIT` (R270). -/
inductive InitLine where
  | i1 | i2 | i3 | i4 | i5 | i6 | i7 | i8 | i9 | i10
  deriving DecidableEq, Repr

/-- The lines of `SET_STATUS_HANDLER` (R275). -/
inductive SetStatusHandlerLine where
  | k1 | k2 | k3 | k4 | k5
  deriving DecidableEq, Repr

/-- The lines of `SET_SS` (R162). -/
inductive SetSsLine where
  | s1 | s2 | s3 | s4 | s5 | s6 | s7
  deriving DecidableEq, Repr

/-- The lines of `GET_SS` (R165). -/
inductive GetSsLine where
  | g1 | g2
  deriving DecidableEq, Repr

/-- The lines of `POLLED_TRANSFER` (R200). -/
inductive PolledLine where
  | p1 | p2 | p3 | p4 | p5 | p6 | p7 | p8 | p9 | p10 | p11 | p12 | p13 | p14 | p15 | p16 | p17 | p18 | p19 | p20 | p21 | p22
  | p23
  deriving DecidableEq, Repr

/-- The lines of `TRANSFER` (R220). -/
inductive TransferLine where
  | t1 | t2 | t3 | t4 | t5 | t6 | t7 | t8 | t9 | t10 | t11 | t12 | t13 | t14 | t15 | t16 | t17
  deriving DecidableEq, Repr

/-- The lines of `ABORT` (R260): `a2` is the call of `AbortSeq`, lines A2 to A9. -/
inductive AbortLine where
  | a1 | a2 | a10
  deriving DecidableEq, Repr

/-- The lines of `RESET` (R265). -/
inductive ResetLine where
  | x1 | x2 | x3 | x4
  deriving DecidableEq, Repr

/-- The lines of `CONFIGURE` (R280). -/
inductive ConfigureLine where
  | n1 | n2 | n3 | n4 | n5
  deriving DecidableEq, Repr

/-- A line of a Host command (R46). -/
inductive HostLine where
  | init (l : InitLine)
  | setStatusHandler (l : SetStatusHandlerLine)
  | setSs (l : SetSsLine)
  | getSs (l : GetSsLine)
  | polled (l : PolledLine)
  | transfer (l : TransferLine)
  | abort (l : AbortLine)
  | reset (l : ResetLine)
  | configure (l : ConfigureLine)
  deriving DecidableEq, Repr

/-- A line of the completion handler (R225). -/
inductive HandlerLine where
  | h1 | h2 | h3 | h4 | h5 | h6 | h7 | h8 | h9 | h10 | h11 | h12 | h13 | h14 | h15 | h16 | h17 | h18 | h19 | h20 | h21 | h22
  | h23 | h24 | h25 | h26 | h27 | h28 | h29 | h30
  deriving DecidableEq, Repr

/-- `hostPc` (R46): `Idle`, a line, or a line of a sub-sequence with the line that called it. -/
inductive HostPc where
  | idle
  | line (l : HostLine)
  | sub (caller : HostLine) (q : SubLine)
  deriving DecidableEq, Repr

/-- `handlerPc` (R47). -/
inductive HandlerPc where
  | line (l : HandlerLine)
  | sub (caller : HandlerLine) (q : SubLine)
  deriving DecidableEq, Repr

/-- The locals of one activation (R48). -/
structure Locals where
  k : Word
  sr : Word
  bytes : Word
  cr : Word
  b : Byte
  deriving DecidableEq, Repr

/-- The locals before any line of an activation has written one (notes/assumptions/19.md). -/
def Locals.fresh : Locals := ⟨0#32, 0#32, 0#32, 0#32, 0#8⟩

/-- The operands of the running command (R124); the fields a command does not have are 0 or absent. -/
structure HostOps where
  base : Word
  handler : Word
  ctx : Word
  idx : Word
  opts : BitVec 3
  send : Option Nat
  recv : Option Nat
  count : Word
  deriving DecidableEq, Repr

/-- No operands: no command is running. -/
def HostOps.none : HostOps := ⟨0#32, 0#32, 0#32, 0#32, 0#3, Option.none, Option.none, 0#32⟩

/-- The event kinds of the status callback (R146). -/
inductive EventKind where
  | modeFault
  | transferDone
  | transmitUnderrun
  | receiveOverrun
  deriving DecidableEq, Repr

/-- The kinds of an `Ext` event: a mode fault (R294), a handler start (R300). -/
inductive ExtKind where
  | modeFault
  | irq
  deriving DecidableEq, Repr

/-- The events of the trace (R61). -/
inductive Event where
  | rdReg (off v : Word)
  | wrReg (off v : Word)
  | rdMem (addr : Nat) (b : Byte)
  | wrMem (addr : Nat) (b : Byte)
  | cb (ctx handler : Word) (kind : EventKind) (count : Word)
  | ret (command : Command) (status : Option Word)
  | xchg (out inp : Byte) (ssn : Option (BitVec 4))
  | ext (kind : ExtKind)
  deriving DecidableEq, Repr

/-- The whole machine. `schedule` and `tick` are the model's own: the moves still to be drawn, and the count of draws taken
beyond them (notes/assumptions/2.md). -/
structure State where
  params : Params
  engine : Engine
  dev : Dev
  mem : List Host.Cell
  stream : List Word
  hostPc : HostPc
  hostOps : HostOps
  hostLoc : Locals
  handlerActive : Bool
  handlerPc : HandlerPc
  handlerLoc : Locals
  trace : List Event
  schedule : List Move
  tick : Nat
  deriving DecidableEq, Repr

/-- The fault kinds (R147), each with the state the fault leaves: every earlier step's effects, none of the faulting line's
(R320, notes/assumptions/17.md). All are safe: the machine stops. The last two are the model's own. -/
inductive Fault where
  /-- code 1, R321: the first line of any command but `INIT` and `IRQ` while `isReady` is false; safe -/
  | notReady (left : State)
  /-- code 2, R322: `P2` and `T2` with no send buffer; safe -/
  | nullSendBuffer (left : State)
  /-- code 3, R323: `P3` and `T3` with `COUNT` 0; safe -/
  | zeroCount (left : State)
  /-- code 4, R324: `S2` with an index that is neither below `L` nor `SS_NONE`; safe -/
  | badSlaveIndex (left : State)
  /-- code 5, R325: `K2` with `HANDLER` 0; safe -/
  | nullHandler (left : State)
  /-- code 6, R326: a callback (`H7`, `H17`, `H24`, `H29`) while none is registered; safe -/
  | stubCallback (left : State)
  /-- code 7, R327: `P4` and `T4` with a buffer that passes 2^32; safe -/
  | bufferWrap (left : State)
  /-- code 8, R328: `I1` with a base that is not 4-aligned; safe -/
  | badBase (left : State)
  /-- code 9, R329: `F4` into a full TX FIFO; safe -/
  | txFifoOverflow (left : State)
  /-- code 10, R330: a counter decrement at 0 (`D6`, `F6`) or a negative difference (`H5`, `H9`, `H21`, `H26`); safe -/
  | counterUnderflow (left : State)
  /-- the model's own: `F3` or `D4` with a cursor at or past 2^32, an address that does not exist (R189,
  notes/assumptions/8.md); safe -/
  | addressOutOfSpace (left : State)
  /-- the model's own: `F3` with no send cursor, a state no run reaches (R181, notes/assumptions/9.md); safe -/
  | sendCursorAbsent (left : State)
  deriving DecidableEq, Repr

/-- The refusal kinds (R148, R331). All are safe: the model goes no further. The last two are the model's own. -/
inductive Refusal where
  /-- the Host's fetch: a reserved `OPC` or a nonzero reserved field (R126); safe -/
  | illegalCommand
  /-- the Host's fetch: the stream ends inside a command (R126); safe -/
  | truncatedCommand
  /-- the Host's fetch: `IRQ` in the Host's stream (R126); safe -/
  | irqFromHost
  /-- a register access at an offset that is no register's (R96); no line performs one; safe -/
  | unmappedOffset
  /-- a transfer whose buffer meets the register block, before its first line (R101, R331), or a buffer access inside the
  block (notes/assumptions/12.md); safe -/
  | bufferInRegisterBlock
  /-- a Host command while the Handler is active (R335); safe -/
  | callbackReentry
  /-- the model's own: a Host command while another one runs, a second Host thread (R31, R381, notes/assumptions/13.md); safe -/
  | commandInProgress
  /-- an instruction the model gives no meaning; none is left; safe -/
  | notModelled (mnemonic : String)
  deriving DecidableEq, Repr

/-- What a line, a command or a step answers. -/
abbrev Result := Host.Outcome State Fault Refusal

/-- The OPEN parameters after reset: those of Config, which have no body (notes/assumptions/4.md). -/
def Params.reset : Params :=
  ⟨Config.fifoDepthPred, Config.ssLinesPred, Config.completeCount, Config.irqConnected⟩

/-- The engine record before the first `INIT` (R62). Every value but `isReady` and `isBusy` is a DESIGN CHOICE
(notes/assumptions/5.md), unsafe: the spec leaves them unspecified. -/
def Engine.reset : Engine where
  baseAddress := 0#32
  isReady := false
  isBusy := false
  sendBuffer := none
  recvBuffer := none
  requestedBytes := 0#32
  remainingBytes := 0#32
  slaveSelect := Config.ssAllHigh
  statusCallback := .stub
  callbackContext := 0#32
  totalBytes := 0#32

/-- The register block after a power-on reset (R64, notes/assumptions/6.md). -/
def Dev.reset : Dev where
  cr := Config.crReset
  rxovr := false
  modf := false
  txuf := false
  imr := 0#7
  en := false
  txFifo := []
  rxFifo := []
  startArmed := false

/-- The machine right after reset: the launch premise (R363), with no command in the stream. -/
def State.reset : State where
  params := Params.reset
  engine := Engine.reset
  dev := Dev.reset
  mem := []
  stream := []
  hostPc := .idle
  hostOps := HostOps.none
  hostLoc := Locals.fresh
  handlerActive := false
  handlerPc := .line .h1
  handlerLoc := Locals.fresh
  trace := []
  schedule := []
  tick := 0

end Sys2Proof.Machine
end

