-- ==== Sys2Proof/Machine/Flags.lean ====
section
/-! DEFINITION. Every flag and field computation: the parameters' numbers (spec/00_scope.md R10), the control register's
fields (spec/30_encoding.md R135), the status register (spec/10_state.md R56), the interrupt line (R57), the chip-select
outputs (R58), the sticky flags' clearing (spec/20_memory.md R90), the mask writes (R91) and the numeric codes (R146, R147). -/

namespace Sys2Proof.Machine

/-- `FIFO_DEPTH`, D >= 1 (R10, R11). -/
def fifoDepth (p : Params) : Nat := p.depthPred + 1

/-- `SS_LINES`, 1 <= L <= W = 4 (R10, R12). -/
def ssLines (p : Params) : Nat := p.linesPred.val + 1

/-- A word with one flag at a bit position, every other bit 0. -/
def flagAt (i : Nat) (b : Bool) : Word := (BitVec.ofBool b).setWidth 32 <<< i

/-- `CR.MSTREN` (R135). -/
def crMstren (cr : Word) : Bool := cr.getLsbD 0

/-- `CR.SS` (R135). -/
def crSs (cr : Word) : BitVec 4 := cr.extractLsb' 10 4

/-- `CR.MANUAL_CS` (R135). -/
def crManualCs (cr : Word) : Bool := cr.getLsbD 14

/-- `CR.MANSTRT_EN` (R135). -/
def crManstrtEn (cr : Word) : Bool := cr.getLsbD 15

/-- `CR.MANSTRT`, the trigger (R135). -/
def crManstrt (cr : Word) : Bool := cr.getLsbD 16

/-- The bits of a `CR` value that are stored and read back (R88, R89). -/
def crStored (v : Word) : Word := v &&& Config.crStoredMask

/-- A `CR` value with its `SS` field replaced (R162 S6, R187). -/
def crWithSs (cr : Word) (ss : BitVec 4) : Word :=
  (cr &&& ~~~Config.ssMask) ||| (ss.setWidth 32 <<< Config.ssShift)

/-- A `CR` value with every select line high (R186 C3). -/
def crDeasserted (cr : Word) : Word := cr ||| Config.ssMask

/-- A `CR` value with the start trigger (R185 M3). -/
def crWithStart (cr : Word) : Word := cr ||| Config.manstrtMask

/-- A `CR` value with the three configuration bits of `OPTS` (R280 N4). -/
def crConfigured (cr : Word) (opts : BitVec 3) : Word :=
  (cr &&& ~~~(Config.mstrenMask ||| Config.manualCsMask ||| Config.manstrtEnMask))
    ||| flagAt 0 (opts.getLsbD 0)
    ||| flagAt 14 (opts.getLsbD 1)
    ||| flagAt 15 (opts.getLsbD 2)

/-- Whether a write of `v` to `CR` arms a start: the trigger, with manual start and master mode in the value stored, on an
enabled device (R89). -/
def crArms (en : Bool) (v : Word) : Bool :=
  crManstrt v && crManstrtEn v && crMstren v && en

/-- The status register's value (R56). -/
def srValue (p : Params) (d : Dev) : Word :=
  flagAt 0 d.rxovr
    ||| flagAt 1 d.modf
    ||| flagAt 2 (d.txFifo.length == 0)
    ||| flagAt 3 (d.txFifo.length == fifoDepth p)
    ||| flagAt 4 (decide (0 < d.rxFifo.length))
    ||| flagAt 5 (d.rxFifo.length == fifoDepth p)
    ||| flagAt 6 d.txuf

/-- Status bits of a latched value (R140). -/
def srRxovr (sr : Word) : Bool := sr.getLsbD 0
def srModf (sr : Word) : Bool := sr.getLsbD 1
def srTxrdy (sr : Word) : Bool := sr.getLsbD 2
def srTxfull (sr : Word) : Bool := sr.getLsbD 3
def srRxne (sr : Word) : Bool := sr.getLsbD 4
def srRxfull (sr : Word) : Bool := sr.getLsbD 5
def srTxuf (sr : Word) : Bool := sr.getLsbD 6

/-- The interrupt request line, a level (R57). -/
def irqLine (p : Params) (d : Dev) : Bool :=
  (srValue p d &&& d.imr.setWidth 32) != 0#32

/-- The chip-select outputs between exchanges (R58): `CR.SS` in manual mode, all high in automatic mode. -/
def ssOut (d : Dev) : BitVec 4 :=
  if crManualCs d.cr then crSs d.cr else Config.ssAllHigh

/-- The write-1-to-clear of `SR` (R90). -/
def clearSticky (v : Word) (d : Dev) : Dev :=
  { d with
    rxovr := d.rxovr && !srRxovr v
    modf := d.modf && !srModf v
    txuf := d.txuf && !srTxuf v }

/-- `IER`: unmask (R91). -/
def unmask (v : Word) (imr : BitVec 7) : BitVec 7 := imr ||| v.setWidth 7

/-- `IDR`: mask (R91). -/
def mask (v : Word) (imr : BitVec 7) : BitVec 7 := imr &&& ~~~(v.setWidth 7)

/-- The numbers of the event kinds (R146). -/
def eventCode : EventKind → Nat
  | .modeFault => 1151
  | .transferDone => 1152
  | .transmitUnderrun => 1153
  | .receiveOverrun => 1154

/-- The numbers of the fault kinds (R147); none for the model's own two. -/
def faultCode : Fault → Option Nat
  | .notReady _ => some 1
  | .nullSendBuffer _ => some 2
  | .zeroCount _ => some 3
  | .badSlaveIndex _ => some 4
  | .nullHandler _ => some 5
  | .stubCallback _ => some 6
  | .bufferWrap _ => some 7
  | .badBase _ => some 8
  | .txFifoOverflow _ => some 9
  | .counterUnderflow _ => some 10
  | .addressOutOfSpace _ => none
  | .sendCursorAbsent _ => none

/-- The state a fault leaves (R320). -/
def faultLeft : Fault → State
  | .notReady s => s
  | .nullSendBuffer s => s
  | .zeroCount s => s
  | .badSlaveIndex s => s
  | .nullHandler s => s
  | .stubCallback s => s
  | .bufferWrap s => s
  | .badBase s => s
  | .txFifoOverflow s => s
  | .counterUnderflow s => s
  | .addressOutOfSpace s => s
  | .sendCursorAbsent s => s

/-- The agent a fault records (R320): the Handler when it is active, else the Host. -/
def faultAgent (f : Fault) : Agent :=
  if (faultLeft f).handlerActive then .handler else .host

/-- The label a fault records (R320): the position of the agent that raised it. -/
def faultLabel (f : Fault) : HostPc ⊕ HandlerPc :=
  if (faultLeft f).handlerActive then .inr (faultLeft f).handlerPc else .inl (faultLeft f).hostPc

end Sys2Proof.Machine
end

