-- ==== Sys2Proof/Machine/Operands.lean ====
section
/-! DEFINITION. The operands of every command (spec/30_encoding.md R124), the buffer checks (spec/41_fifo_pump.md R189,
spec/60_exceptions.md R331) and the chip-select encoding (spec/40_slave_select.md R160, R161). -/

namespace Sys2Proof.Machine

/-- A buffer operand: the address when its valid bit is set, else absent (R124). -/
def bufferOperand (valid : Bool) (word : Word) : Option Nat :=
  if valid then some word.toNat else none

/-- The operands of `INIT`. -/
def initOps (base : Word) : HostOps := { HostOps.none with base := base }

/-- The operands of `SET_STATUS_HANDLER`. -/
def setStatusHandlerOps (handler ctx : Word) : HostOps := { HostOps.none with handler := handler, ctx := ctx }

/-- The operand of `SET_SS`, zero-extended (R124). -/
def setSsOps (idx : BitVec 8) : HostOps := { HostOps.none with idx := idx.setWidth 32 }

/-- The operands of `POLLED_TRANSFER` and `TRANSFER`. -/
def transferOps (txv rxv : Bool) (send recv count : Word) : HostOps :=
  { HostOps.none with send := bufferOperand txv send, recv := bufferOperand rxv recv, count := count }

/-- The operand of `CONFIGURE`. -/
def configureOps (opts : BitVec 3) : HostOps := { HostOps.none with opts := opts }

/-- `BufWraps(a, n)`: the range passes the top of the address space, computed exactly (R189). -/
def bufWraps (a n : Nat) : Bool := decide (Config.addressLimit < a + n)

/-- `BufWraps` of a buffer that may be absent: an absent one does not wrap. -/
def bufferWraps (buf : Option Nat) (n : Nat) : Bool :=
  match buf with
  | none => false
  | some a => bufWraps a n

/-- The range of `n` bytes at `a` meets the register block at `base` (R331). -/
def meetsBlock (base : Word) (a n : Nat) : Bool :=
  decide (0 < n) && decide (a < base.toNat + Config.regBlockSize) && decide (base.toNat < a + n)

/-- `meetsBlock` of a buffer that may be absent: an absent one meets nothing (R124; for the send buffer DEDUCED,
notes/assumptions/27.md). -/
def bufferMeetsBlock (base : Word) (buf : Option Nat) (n : Nat) : Bool :=
  match buf with
  | none => false
  | some a => meetsBlock base a n

/-- The refusal condition `BufferInRegisterBlock` of a transfer (R331). -/
def inRegisterBlock (e : Engine) (o : HostOps) : Bool :=
  e.isReady && (bufferMeetsBlock e.baseAddress o.send o.count.toNat || bufferMeetsBlock e.baseAddress o.recv o.count.toNat)

/-- A valid index of `SET_SS` (R12, R162 S2). -/
def validIndex (p : Params) (idx : Word) : Bool :=
  decide (idx.toNat < ssLines p) || idx == Config.ssNone

/-- `enc(k)` (R160): all lines high but line `k`; all high for `SS_NONE`. -/
def enc (k : Word) : BitVec 4 :=
  if k.toNat < 4 then ~~~(1#4 <<< k.toNat) else Config.ssAllHigh

/-- The clear bits of a pattern, lowest first (R161). -/
def clearBits (v : BitVec 4) : List Nat :=
  (List.range 4).filter fun i => !v.getLsbD i

/-- `dec(v)` (R161, R168): the line that is low if exactly one is, else `SS_NONE`. -/
def dec (v : BitVec 4) : Word :=
  match clearBits v with
  | [i] => BitVec.ofNat 32 i
  | _ => Config.ssNone

end Sys2Proof.Machine
end

