-- ==== Sys2Proof/Machine/Ops.lean ====
section
/-! DEFINITION. The named operations: buffer memory (spec/20_memory.md R80, R81), the event trace (spec/10_state.md R61),
register accesses (spec/20_memory.md R88 to R96), the sequencers' positions and locals (spec/10_state.md R46 to R48), the
callback (spec/60_exceptions.md R334), and trap entry and return (R341, R343). -/

namespace Sys2Proof.Machine

/-! ### Buffer memory -/

/-- The canonical form: addresses strictly rising and inside the address space, no entry equal to what an unlisted address
reads as. -/
abbrev Memory.wf (m : List Host.Cell) : Prop :=
  m.Pairwise (fun c d => c.1 < d.1) ∧ ∀ c ∈ m, c.1 < Config.addressLimit ∧ c.2 ≠ Config.unwrittenByte

/-- The byte at an address (R81). -/
def Memory.read : List Host.Cell → Nat → Byte
  | [], _ => Config.unwrittenByte
  | (b, v) :: m, a => if b = a then v else Memory.read m a

/-- Puts a cell in front of the cells above it, unless it holds what an unlisted address reads as. -/
def Memory.cons (a : Nat) (v : Byte) (m : List Host.Cell) : List Host.Cell :=
  if v = Config.unwrittenByte then m else (a, v) :: m

/-- The memory with one byte written (R81), in canonical form. -/
def Memory.write : List Host.Cell → Nat → Byte → List Host.Cell
  | [], a, v => Memory.cons a v []
  | (b, w) :: m, a, v =>
    if a < b then Memory.cons a v ((b, w) :: m)
    else if a = b then Memory.cons a v m
    else (b, w) :: Memory.write m a v

/-! ### The trace -/

/-- Appends one event (R61). -/
def log (e : Event) (s : State) : State := { s with trace := s.trace ++ [e] }

/-! ### Positions and locals -/

/-- The Host's next line (R46). -/
def goHost (l : HostLine) (s : State) : State := { s with hostPc := .line l }

/-- The Handler's next line (R47). -/
def goHandler (l : HandlerLine) (s : State) : State := { s with handlerPc := .line l }

/-- An agent's locals (R48). -/
def locals (a : Agent) (s : State) : Locals :=
  match a with
  | .host => s.hostLoc
  | .handler => s.handlerLoc

/-- Writes an agent's locals (R48). -/
def setLocals (a : Agent) (l : Locals) (s : State) : State :=
  match a with
  | .host => { s with hostLoc := l }
  | .handler => { s with handlerLoc := l }

/-- Writes the local `k` (R48). -/
def setK (a : Agent) (v : Word) (s : State) : State := setLocals a { locals a s with k := v } s

/-- Writes the local `sr` (R48). -/
def setSr (a : Agent) (v : Word) (s : State) : State := setLocals a { locals a s with sr := v } s

/-- Writes the local `bytes` (R48). -/
def setBytes (a : Agent) (v : Word) (s : State) : State := setLocals a { locals a s with bytes := v } s

/-- Writes the local `cr` (R48). -/
def setCr (a : Agent) (v : Word) (s : State) : State := setLocals a { locals a s with cr := v } s

/-- Writes the local `b` (R48). -/
def setB (a : Agent) (v : Byte) (s : State) : State := setLocals a { locals a s with b := v } s

/-- The Host line after a line that calls a sub-sequence (R180); a line that calls none stands (notes/assumptions/24.md). -/
def afterHostCall (l : HostLine) : HostLine :=
  match l with
  | .init .i8 => .init .i9
  | .polled .p14 => .polled .p15
  | .polled .p15 => .polled .p16
  | .polled .p18 => .polled .p19
  | .polled .p20 => .polled .p21
  | .transfer .t13 => .transfer .t14
  | .transfer .t16 => .transfer .t17
  | .abort .a2 => .abort .a10
  | .reset .x2 => .reset .x3
  | other => other

/-- The Handler line after a line that calls a sub-sequence (R180). -/
def afterHandlerCall (l : HandlerLine) : HandlerLine :=
  match l with
  | .h6 => .h7
  | .h10 => .h11
  | .h11 => .h12
  | .h14 => .h15
  | .h19 => .h20
  | .h23 => .h24
  | .h28 => .h29
  | other => other

/-- Moves an agent inside a sub-sequence, with the calling line kept (R180). -/
def goSub (a : Agent) (q : SubLine) (s : State) : State :=
  match a with
  | .host =>
    match s.hostPc with
    | .sub caller _ => { s with hostPc := .sub caller q }
    | .line caller => { s with hostPc := .sub caller q }
    | .idle => s
  | .handler =>
    match s.handlerPc with
    | .sub caller _ => { s with handlerPc := .sub caller q }
    | .line caller => { s with handlerPc := .sub caller q }

/-- `return-to-caller`: the agent goes on at the line after the calling line (R180). -/
def returnToCaller (a : Agent) (s : State) : State :=
  match a with
  | .host =>
    match s.hostPc with
    | .sub caller _ => goHost (afterHostCall caller) s
    | .line caller => goHost (afterHostCall caller) s
    | .idle => s
  | .handler =>
    match s.handlerPc with
    | .sub caller _ => goHandler (afterHandlerCall caller) s
    | .line caller => goHandler (afterHandlerCall caller) s

/-! ### Register accesses -/

/-- The registers of the block (R133). -/
inductive Reg where
  | cr | sr | ier | idr | imr | er | txd | rxd
  deriving DecidableEq, Repr

/-- The register at an offset, none at any other offset (R96, R133). -/
def regAt (off : Word) : Option Reg :=
  if off = Config.offCr then some .cr
  else if off = Config.offSr then some .sr
  else if off = Config.offIer then some .ier
  else if off = Config.offIdr then some .idr
  else if off = Config.offImr then some .imr
  else if off = Config.offEr then some .er
  else if off = Config.offTxd then some .txd
  else if off = Config.offRxd then some .rxd
  else none

/-- A register's value and the block after the read's side effect (R88 to R95); a read whose value no rule gives draws it. -/
def readReg (r : Reg) (s : State) : Word × State :=
  match r with
  | .cr => (crStored s.dev.cr, s)
  | .sr => (srValue s.params s.dev, s)
  | .ier => (Config.writeOnlyRead s.tick, { s with tick := s.tick + 1 })
  | .idr => (Config.writeOnlyRead s.tick, { s with tick := s.tick + 1 })
  | .imr => (s.dev.imr.setWidth 32, s)
  | .er => ((BitVec.ofBool s.dev.en).setWidth 32, s)
  | .txd => (Config.writeOnlyRead s.tick, { s with tick := s.tick + 1 })
  | .rxd =>
    match s.dev.rxFifo with
    | b :: rest => (b.setWidth 32, { s with dev := { s.dev with rxFifo := rest } })
    | [] => ((Config.emptyRxByte s.tick).setWidth 32, { s with tick := s.tick + 1 })

/-- The block after a write to a register other than `TXD` (R89 to R95). -/
def writeReg (r : Reg) (v : Word) (d : Dev) : Dev :=
  match r with
  | .cr => { d with cr := crStored v, startArmed := d.startArmed || crArms d.en v }
  | .sr => clearSticky v d
  | .ier => { d with imr := unmask v d.imr }
  | .idr => { d with imr := mask v d.imr }
  | .imr => d
  | .er => { d with en := v.getLsbD 0, startArmed := d.startArmed && v.getLsbD 0 }
  | .txd => { d with txFifo := d.txFifo ++ [v.setWidth 8] }
  | .rxd => d

/-- A push into a full TX FIFO (R94). -/
def overflows (r : Reg) (s : State) : Bool :=
  match r with
  | .txd => decide (fifoDepth s.params ≤ s.dev.txFifo.length)
  | _ => false

/-- `RegRead(off)` (R16): the value goes to `k` with the state after the access and its event. -/
def regRead (off : Word) (s : State) (k : Word → State → Result) : Result :=
  match regAt off with
  | none => .refused .unmappedOffset
  | some r => k (readReg r s).1 (log (.rdReg off (readReg r s).1) (readReg r s).2)

/-- `RegWrite(off, v)` (R16): the state after the access and its event goes to `k`. -/
def regWrite (off v : Word) (s : State) (k : State → Result) : Result :=
  match regAt off with
  | none => .refused .unmappedOffset
  | some r =>
    if overflows r s then .fault (.txFifoOverflow s)
    else k (log (.wrReg off v) { s with dev := writeReg r v s.dev })

/-! ### Buffer accesses -/

/-- The address lies in the register block of an initialised engine (R101). -/
def inBlock (e : Engine) (a : Nat) : Bool :=
  e.isReady && meetsBlock e.baseAddress a 1

/-- `MemRead(addr, 1)` (R16). -/
def memRead (a : Nat) (s : State) (k : Byte → State → Result) : Result :=
  if Config.addressLimit ≤ a then .fault (.addressOutOfSpace s)
  else if inBlock s.engine a then .refused .bufferInRegisterBlock
  else k (Memory.read s.mem a) (log (.rdMem a (Memory.read s.mem a)) s)

/-- `MemWrite(addr, 1, v)` (R16). -/
def memWrite (a : Nat) (v : Byte) (s : State) (k : State → Result) : Result :=
  if Config.addressLimit ≤ a then .fault (.addressOutOfSpace s)
  else if inBlock s.engine a then .refused .bufferInRegisterBlock
  else k (log (.wrMem a v) { s with mem := Memory.write s.mem a v })

/-! ### Returns, callback, trap entry and return -/

/-- `return v` of a Host command (R16, R46): the status goes to the host and the Host is idle. -/
def hostReturn (c : Command) (status : Option Word) (s : State) : State :=
  log (.ret c status) { s with hostPc := .idle, hostOps := HostOps.none, hostLoc := Locals.fresh }

/-- `Callback(event, count)` (R334): a fault when none is registered, else an event in the trace. -/
def callback (kind : EventKind) (count : Word) (s : State) (k : State → Result) : Result :=
  match s.engine.statusCallback with
  | .stub => .fault (.stubCallback s)
  | .registered id => k (log (.cb s.engine.callbackContext id kind count) s)

/-- Trap entry (R300, R341): the Handler starts at `H1` with fresh locals; nothing is saved and nothing else changes. -/
def trapEntry (s : State) : State :=
  log (.ext .irq) { s with handlerActive := true, handlerPc := .line .h1, handlerLoc := Locals.fresh }

/-- Trap return (R343): the Handler is inactive and the Host goes on where it stood. -/
def trapReturn (s : State) : State :=
  { s with handlerActive := false, handlerPc := .line .h1, handlerLoc := Locals.fresh }

/-! ### Counters -/

/-- `diff()` (R225): `requestedBytes - remainingBytes`, a fault when negative (R190). -/
def diff (s : State) (k : Word → Result) : Result :=
  if s.engine.requestedBytes < s.engine.remainingBytes then .fault (.counterUnderflow s)
  else k (s.engine.requestedBytes - s.engine.remainingBytes)

/-- `completeCount()` (R225, R235). -/
def completeCount (s : State) : Word :=
  match s.params.completeCount with
  | .zero => s.engine.requestedBytes
  | .total => s.engine.totalBytes

/-! ### The lines that more than one command has -/

/-- `cr <- RegRead(CR)` into the agent's local (R185 to R187). -/
def readCrLocal (a : Agent) (go : State → State) (s : State) : Result :=
  regRead Config.offCr s fun v s => .next (go (setCr a v s))

/-- `sr <- RegRead(SR)` into the agent's local. -/
def readSrLocal (a : Agent) (go : State → State) (s : State) : Result :=
  regRead Config.offSr s fun v s => .next (go (setSr a v s))

/-- The write of the cached selection into `CR.SS` over the value the agent read (R162 S6, R187). -/
def writeSelect (a : Agent) (go : State → State) (s : State) : Result :=
  regWrite Config.offCr (crWithSs (locals a s).cr s.engine.slaveSelect) s fun s => .next (go s)

/-- The `isReady` check of a Host command's first line (R36, R321). -/
def checkReady (s : State) (ok : Result) : Result :=
  if s.engine.isReady then ok else .fault (.notReady s)

/-- The claim of a transfer: lines `P8` and `T8` (R200, R220). -/
def installCounters (s : State) : State :=
  { s with engine := { s.engine with
      requestedBytes := s.hostOps.count
      remainingBytes := s.hostOps.count } }

/-- Lines `P7` and `T7` (R200, R220). -/
def installBuffers (s : State) : State :=
  { s with engine := { s.engine with sendBuffer := s.hostOps.send, recvBuffer := s.hostOps.recv } }

/-- `isBusy <- v`. -/
def setBusy (v : Bool) (s : State) : State := { s with engine := { s.engine with isBusy := v } }

end Sys2Proof.Machine
end

