-- ==== Sys2Proof/Machine/Device.lean ====
section
/-! DEFINITION. The steps of the Device and of the Far end (spec/45_device_agent.md R290 to R296) and the condition of the
platform step (R300). The drawn bytes are arguments. -/

namespace Sys2Proof.Machine

/-- A master exchange is enabled (R290). -/
def masterEnabled (s : State) : Bool :=
  s.dev.en && crMstren s.dev.cr && !s.dev.txFifo.isEmpty && (!crManstrtEn s.dev.cr || s.dev.startArmed)

/-- A slave exchange is enabled (R290). -/
def slaveEnabled (s : State) : Bool :=
  s.dev.en && !crMstren s.dev.cr

/-- A mode fault is enabled (R290, R294). -/
def modeFaultEnabled (s : State) : Bool :=
  s.dev.en && crMstren s.dev.cr

/-- The platform step is enabled (R300, R301). -/
def startEnabled (s : State) : Bool :=
  irqLine s.params s.dev && !s.handlerActive && s.params.irqConnected

/-- Some step of an agent other than the two sequencers is enabled (R290). -/
def otherEnabled (s : State) : Bool :=
  masterEnabled s || slaveEnabled s || modeFaultEnabled s || startEnabled s

/-- The received byte of an exchange: pushed, or dropped with the overrun flag when the RX FIFO is full (R291, R292). -/
def receive (depth : Nat) (b : Byte) (d : Dev) : Dev :=
  if d.rxFifo.length = depth then { d with rxovr := true } else { d with rxFifo := d.rxFifo ++ [b] }

/-- The exchange that empties the TX FIFO disarms a start (R291, R293). -/
def disarmIfEmpty (d : Dev) : Dev :=
  if d.txFifo = [] then { d with startArmed := false } else d

/-- A master exchange with the slave's answer (R291). -/
def masterExchange (response : Byte) (s : State) : State :=
  match s.dev.txFifo with
  | [] => s
  | out :: rest =>
    log (.xchg out response (some (crSs s.dev.cr)))
      { s with dev := disarmIfEmpty (receive (fifoDepth s.params) response { s.dev with txFifo := rest }) }

/-- A slave exchange with the byte an underrun sends and the byte the external master sends (R292). -/
def slaveExchange (idle master : Byte) (s : State) : State :=
  match s.dev.txFifo with
  | [] =>
    log (.xchg idle master none)
      { s with dev := receive (fifoDepth s.params) master { s.dev with txuf := true } }
  | out :: rest =>
    log (.xchg out master none)
      { s with dev := receive (fifoDepth s.params) master { s.dev with txFifo := rest } }

/-- A mode fault (R294). -/
def modeFault (s : State) : State :=
  log (.ext .modeFault) { s with dev := { s.dev with modf := true } }

end Sys2Proof.Machine
end

