-- ==== Sys2Proof/Machine/Pump.lean ====
section
/-! DEFINITION. The sub-sequences that commands and the Handler run in place of a line of theirs: `Fill`
(spec/41_fifo_pump.md R181), `Drain` (R183), `StartIfManual` (R185), `DeassertIfManual` (R186) and `AbortSeq`
(spec/44_abort_reset_init.md R260). Each line is one step of the agent that runs it (R180). -/

namespace Sys2Proof.Machine

/-- `Fill` (R181). -/
def fillF1 (a : Agent) (s : State) : Result := .next (goSub a .f2 (setK a 0#32 s))

def fillF2 (a : Agent) (s : State) : Result :=
  if s.engine.remainingBytes = 0#32 ∨ (locals a s).k.toNat = fifoDepth s.params then .next (returnToCaller a s)
  else .next (goSub a .f3 s)

def fillF3 (a : Agent) (s : State) : Result :=
  match s.engine.sendBuffer with
  | none => .fault (.sendCursorAbsent s)
  | some addr => memRead addr s fun b s => .next (goSub a .f4 (setB a b s))

def fillF4 (a : Agent) (s : State) : Result :=
  regWrite Config.offTxd ((locals a s).b.setWidth 32) s fun s => .next (goSub a .f5 s)

def fillF5 (a : Agent) (s : State) : Result :=
  .next (goSub a .f6 { s with engine := { s.engine with sendBuffer := s.engine.sendBuffer.map (· + 1) } })

def fillF6 (a : Agent) (s : State) : Result :=
  if s.engine.remainingBytes = 0#32 then .fault (.counterUnderflow s)
  else .next (goSub a .f7 { s with engine := { s.engine with remainingBytes := s.engine.remainingBytes - 1#32 } })

def fillF7 (a : Agent) (s : State) : Result := .next (goSub a .f2 (setK a ((locals a s).k + 1#32) s))

/-- `Drain(k)` (R183); the operand is the caller's local `k`. -/
def drainD1 (a : Agent) (s : State) : Result :=
  if (locals a s).k = 0#32 then .next (returnToCaller a s) else .next (goSub a .d2 s)

def drainD2 (a : Agent) (s : State) : Result :=
  regRead Config.offRxd s fun v s => .next (goSub a .d3 (setB a (v.setWidth 8) s))

def drainD3 (a : Agent) (s : State) : Result :=
  match s.engine.recvBuffer with
  | none => .next (goSub a .d6 s)
  | some _ => .next (goSub a .d4 s)

def drainD4 (a : Agent) (s : State) : Result :=
  match s.engine.recvBuffer with
  | none => .next (goSub a .d6 s)
  | some addr => memWrite addr (locals a s).b s fun s => .next (goSub a .d5 s)

def drainD5 (a : Agent) (s : State) : Result :=
  .next (goSub a .d6 { s with engine := { s.engine with recvBuffer := s.engine.recvBuffer.map (· + 1) } })

def drainD6 (a : Agent) (s : State) : Result :=
  if s.engine.requestedBytes = 0#32 then .fault (.counterUnderflow s)
  else .next (goSub a .d7 { s with engine := { s.engine with requestedBytes := s.engine.requestedBytes - 1#32 } })

def drainD7 (a : Agent) (s : State) : Result := .next (goSub a .d1 (setK a ((locals a s).k - 1#32) s))

/-- `StartIfManual` (R185). -/
def startM1 (a : Agent) (s : State) : Result := readCrLocal a (goSub a .m2) s

def startM2 (a : Agent) (s : State) : Result :=
  if crManstrtEn (locals a s).cr = false ∨ crMstren (locals a s).cr = false then .next (returnToCaller a s)
  else .next (goSub a .m3 s)

def startM3 (a : Agent) (s : State) : Result :=
  regWrite Config.offCr (crWithStart (locals a s).cr) s fun s => .next (returnToCaller a s)

/-- `DeassertIfManual` (R186). -/
def deassertC1 (a : Agent) (s : State) : Result := readCrLocal a (goSub a .c2) s

def deassertC2 (a : Agent) (s : State) : Result :=
  if crManualCs (locals a s).cr = false then .next (returnToCaller a s) else .next (goSub a .c3 s)

def deassertC3 (a : Agent) (s : State) : Result :=
  regWrite Config.offCr (crDeasserted (locals a s).cr) s fun s => .next (returnToCaller a s)

/-- `AbortSeq`, lines A2 to A9 (R260). -/
def abortA2 (a : Agent) (s : State) : Result :=
  regWrite Config.offEr 0#32 s fun s => .next (goSub a .a3 s)

def abortA3 (a : Agent) (s : State) : Result := readSrLocal a (goSub a .a4) s

def abortA4 (a : Agent) (s : State) : Result :=
  if srRxne (locals a s).sr = false then .next (goSub a .a7 s) else .next (goSub a .a5 s)

def abortA5 (a : Agent) (s : State) : Result :=
  regRead Config.offRxd s fun _ s => .next (goSub a .a6 s)

def abortA6 (a : Agent) (s : State) : Result := .next (goSub a .a3 s)

def abortA7 (a : Agent) (s : State) : Result :=
  regWrite Config.offSr Config.bModf s fun s => .next (goSub a .a8 s)

def abortA8 (a : Agent) (s : State) : Result :=
  .next (goSub a .a9 { s with engine := { s.engine with requestedBytes := 0#32, remainingBytes := 0#32 } })

def abortA9 (a : Agent) (s : State) : Result := .next (returnToCaller a (setBusy false s))

/-- One line of a sub-sequence, run by an agent. -/
def subLine (a : Agent) (q : SubLine) (s : State) : Result :=
  match q with
  | .f1 => fillF1 a s
  | .f2 => fillF2 a s
  | .f3 => fillF3 a s
  | .f4 => fillF4 a s
  | .f5 => fillF5 a s
  | .f6 => fillF6 a s
  | .f7 => fillF7 a s
  | .d1 => drainD1 a s
  | .d2 => drainD2 a s
  | .d3 => drainD3 a s
  | .d4 => drainD4 a s
  | .d5 => drainD5 a s
  | .d6 => drainD6 a s
  | .d7 => drainD7 a s
  | .m1 => startM1 a s
  | .m2 => startM2 a s
  | .m3 => startM3 a s
  | .c1 => deassertC1 a s
  | .c2 => deassertC2 a s
  | .c3 => deassertC3 a s
  | .a2 => abortA2 a s
  | .a3 => abortA3 a s
  | .a4 => abortA4 a s
  | .a5 => abortA5 a s
  | .a6 => abortA6 a s
  | .a7 => abortA7 a s
  | .a8 => abortA8 a s
  | .a9 => abortA9 a s

/-- A line that calls a sub-sequence: the sub-sequence runs in its place, from its first line on (R180,
notes/assumptions/22.md). -/
def callSub (a : Agent) (q : SubLine) (s : State) : Result := subLine a q (goSub a q s)

end Sys2Proof.Machine
end

