-- ==== Sys2Proof/Machine/InterruptLines.lean ====
section
/-! DEFINITION. The lines of `TRANSFER` (spec/43_interrupt.md R220) and of the completion handler `IRQ` (R225). -/

namespace Sys2Proof.Machine

/-- Line `T8`: the counters, and the shadow of the total when `COMPLETE_COUNT` is `TOTAL` (R220, R235). -/
def installTransferCounters (s : State) : State :=
  match s.params.completeCount with
  | .zero => installCounters s
  | .total =>
    { installCounters s with engine := { (installCounters s).engine with totalBytes := s.hostOps.count } }

/-- `TRANSFER`, line by line (R220). -/
def transferLine (l : TransferLine) (s : State) : Result :=
  match l with
  | .t1 => checkReady s (.next (goHost (.transfer .t2) s))
  | .t2 => if s.hostOps.send = none then .fault (.nullSendBuffer s) else .next (goHost (.transfer .t3) s)
  | .t3 => if s.hostOps.count = 0#32 then .fault (.zeroCount s) else .next (goHost (.transfer .t4) s)
  | .t4 =>
    if bufferWraps s.hostOps.send s.hostOps.count.toNat || bufferWraps s.hostOps.recv s.hostOps.count.toNat then
      .fault (.bufferWrap s)
    else .next (goHost (.transfer .t5) s)
  | .t5 =>
    if s.engine.isBusy then .next (hostReturn .transfer (some Config.deviceBusy) s)
    else .next (goHost (.transfer .t6) s)
  | .t6 => .next (goHost (.transfer .t7) (setBusy true s))
  | .t7 => .next (goHost (.transfer .t8) (installBuffers s))
  | .t8 => .next (goHost (.transfer .t9) (installTransferCounters s))
  | .t9 => readCrLocal .host (goHost (.transfer .t10)) s
  | .t10 =>
    if crManualCs s.hostLoc.cr = false then .next (goHost (.transfer .t12) s) else .next (goHost (.transfer .t11) s)
  | .t11 => writeSelect .host (goHost (.transfer .t12)) s
  | .t12 => regWrite Config.offEr 1#32 s fun s => .next (goHost (.transfer .t13) s)
  | .t13 => callSub .host .f1 s
  | .t14 => regWrite Config.offSr Config.w1cAll s fun s => .next (goHost (.transfer .t15) s)
  | .t15 => regWrite Config.offIer Config.irqXfer s fun s => .next (goHost (.transfer .t16) s)
  | .t16 => callSub .host .m1 s
  | .t17 => .next (hostReturn .transfer (some Config.success) s)

/-- The completion handler, line by line (R225). -/
def handlerLine (l : HandlerLine) (s : State) : Result :=
  match l with
  | .h1 => readSrLocal .handler (goHandler .h2) s
  | .h2 => regWrite Config.offSr (s.handlerLoc.sr &&& Config.w1cAll) s fun s => .next (goHandler .h3 s)
  | .h3 => regWrite Config.offIdr Config.bTxrdy s fun s => .next (goHandler .h4 s)
  | .h4 => if srModf s.handlerLoc.sr = false then .next (goHandler .h8 s) else .next (goHandler .h5 s)
  | .h5 => diff s fun v => .next (goHandler .h6 (setBytes .handler v s))
  | .h6 => callSub .handler .a2 s
  | .h7 => callback .modeFault s.handlerLoc.bytes s fun s => .next (trapReturn s)
  | .h8 => if srTxrdy s.handlerLoc.sr = false then .next (goHandler .h20 s) else .next (goHandler .h9 s)
  | .h9 => diff s fun v => .next (goHandler .h10 (setK .handler v s))
  | .h10 => callSub .handler .d1 s
  | .h11 => callSub .handler .f1 s
  | .h12 =>
    if s.engine.remainingBytes ≠ 0#32 ∨ s.engine.requestedBytes ≠ 0#32 then .next (goHandler .h18 s)
    else .next (goHandler .h13 s)
  | .h13 => regWrite Config.offIdr Config.irqXfer s fun s => .next (goHandler .h14 s)
  | .h14 => callSub .handler .c1 s
  | .h15 => .next (goHandler .h16 (setBusy false s))
  | .h16 => regWrite Config.offEr 0#32 s fun s => .next (goHandler .h17 s)
  | .h17 => callback .transferDone (completeCount s) s fun s => .next (goHandler .h20 s)
  | .h18 => regWrite Config.offIer Config.bTxrdy s fun s => .next (goHandler .h19 s)
  | .h19 => callSub .handler .m1 s
  | .h20 => if srRxovr s.handlerLoc.sr = false then .next (goHandler .h25 s) else .next (goHandler .h21 s)
  | .h21 => diff s fun v => .next (goHandler .h22 (setBytes .handler v s))
  | .h22 => .next (goHandler .h23 (setBusy false s))
  | .h23 => callSub .handler .c1 s
  | .h24 => callback .receiveOverrun s.handlerLoc.bytes s fun s => .next (goHandler .h25 s)
  | .h25 => if srTxuf s.handlerLoc.sr = false then .next (goHandler .h30 s) else .next (goHandler .h26 s)
  | .h26 => diff s fun v => .next (goHandler .h27 (setBytes .handler v s))
  | .h27 => .next (goHandler .h28 (setBusy false s))
  | .h28 => callSub .handler .c1 s
  | .h29 => callback .transmitUnderrun s.handlerLoc.bytes s fun s => .next (goHandler .h30 s)
  | .h30 => .next (trapReturn s)

end Sys2Proof.Machine
end

