-- ==== Sys2Proof/Machine/LifecycleLines.lean ====
section
/-! DEFINITION. The lines of `ABORT` (spec/44_abort_reset_init.md R260), `RESET` (R265), `INIT` (R270),
`SET_STATUS_HANDLER` (R275) and `CONFIGURE` (R280). -/

namespace Sys2Proof.Machine

/-- `ABORT`, line by line; A2 to A9 are `AbortSeq` (R260). -/
def abortLine (l : AbortLine) (s : State) : Result :=
  match l with
  | .a1 => checkReady s (.next (goHost (.abort .a2) s))
  | .a2 => callSub .host .a2 s
  | .a10 => .next (hostReturn .abort none s)

/-- `RESET`, line by line (R265). -/
def resetLine (l : ResetLine) (s : State) : Result :=
  match l with
  | .x1 => checkReady s (.next (goHost (.reset .x2) s))
  | .x2 => callSub .host .a2 s
  | .x3 => regWrite Config.offCr Config.crReset s fun s => .next (goHost (.reset .x4) s)
  | .x4 => .next (hostReturn .reset none s)

/-- `INIT`, line by line (R270). -/
def initLine (l : InitLine) (s : State) : Result :=
  match l with
  | .i1 => if s.hostOps.base.toNat % 4 ≠ 0 then .fault (.badBase s) else .next (goHost (.init .i2) s)
  | .i2 =>
    if s.engine.isBusy then .next (hostReturn .init (some Config.alreadyStarted) s) else .next (goHost (.init .i3) s)
  | .i3 => .next (goHost (.init .i4) { s with engine := { s.engine with baseAddress := s.hostOps.base } })
  | .i4 =>
    .next (goHost (.init .i5) { s with engine := { s.engine with statusCallback := .stub, callbackContext := 0#32 } })
  | .i5 =>
    .next (goHost (.init .i6) { s with engine := { s.engine with
      sendBuffer := none
      recvBuffer := none
      requestedBytes := 0#32
      remainingBytes := 0#32 } })
  | .i6 => .next (goHost (.init .i7) { s with engine := { s.engine with slaveSelect := enc Config.ssNone } })
  | .i7 => .next (goHost (.init .i8) { s with engine := { s.engine with isReady := true } })
  | .i8 => callSub .host .a2 s
  | .i9 => regWrite Config.offCr Config.crReset s fun s => .next (goHost (.init .i10) s)
  | .i10 => .next (hostReturn .init (some Config.success) s)

/-- `SET_STATUS_HANDLER`, line by line (R275). -/
def setStatusHandlerLine (l : SetStatusHandlerLine) (s : State) : Result :=
  match l with
  | .k1 => checkReady s (.next (goHost (.setStatusHandler .k2) s))
  | .k2 => if s.hostOps.handler = 0#32 then .fault (.nullHandler s) else .next (goHost (.setStatusHandler .k3) s)
  | .k3 => .next (goHost (.setStatusHandler .k4) { s with engine := { s.engine with callbackContext := s.hostOps.ctx } })
  | .k4 =>
    .next (goHost (.setStatusHandler .k5)
      { s with engine := { s.engine with statusCallback := .registered s.hostOps.handler } })
  | .k5 => .next (hostReturn .setStatusHandler none s)

/-- `CONFIGURE`, line by line (R280). -/
def configureLine (l : ConfigureLine) (s : State) : Result :=
  match l with
  | .n1 => checkReady s (.next (goHost (.configure .n2) s))
  | .n2 =>
    if s.engine.isBusy then .next (hostReturn .configure (some Config.deviceBusy) s)
    else .next (goHost (.configure .n3) s)
  | .n3 => readCrLocal .host (goHost (.configure .n4)) s
  | .n4 =>
    regWrite Config.offCr (crConfigured s.hostLoc.cr s.hostOps.opts) s fun s => .next (goHost (.configure .n5) s)
  | .n5 => .next (hostReturn .configure (some Config.success) s)

end Sys2Proof.Machine
end

