-- ==== Sys2Proof/Machine/PolledLines.lean ====
section
/-! DEFINITION. The lines of `POLLED_TRANSFER` (spec/42_polled.md R200). -/

namespace Sys2Proof.Machine

/-- `POLLED_TRANSFER`, line by line (R200). -/
def polledLine (l : PolledLine) (s : State) : Result :=
  match l with
  | .p1 => checkReady s (.next (goHost (.polled .p2) s))
  | .p2 => if s.hostOps.send = none then .fault (.nullSendBuffer s) else .next (goHost (.polled .p3) s)
  | .p3 => if s.hostOps.count = 0#32 then .fault (.zeroCount s) else .next (goHost (.polled .p4) s)
  | .p4 =>
    if bufferWraps s.hostOps.send s.hostOps.count.toNat || bufferWraps s.hostOps.recv s.hostOps.count.toNat then
      .fault (.bufferWrap s)
    else .next (goHost (.polled .p5) s)
  | .p5 =>
    if s.engine.isBusy then .next (hostReturn .polledTransfer (some Config.deviceBusy) s)
    else .next (goHost (.polled .p6) s)
  | .p6 => .next (goHost (.polled .p7) (setBusy true s))
  | .p7 => .next (goHost (.polled .p8) (installBuffers s))
  | .p8 => .next (goHost (.polled .p9) (installCounters s))
  | .p9 => readCrLocal .host (goHost (.polled .p10)) s
  | .p10 =>
    if crManualCs s.hostLoc.cr = false then .next (goHost (.polled .p12) s) else .next (goHost (.polled .p11) s)
  | .p11 => writeSelect .host (goHost (.polled .p12)) s
  | .p12 => regWrite Config.offEr 1#32 s fun s => .next (goHost (.polled .p13) s)
  | .p13 =>
    if s.engine.remainingBytes = 0#32 ∧ s.engine.requestedBytes = 0#32 then .next (goHost (.polled .p20) s)
    else .next (goHost (.polled .p14) s)
  | .p14 => callSub .host .f1 s
  | .p15 => callSub .host .m1 s
  | .p16 => readSrLocal .host (goHost (.polled .p17)) s
  | .p17 =>
    if srTxrdy s.hostLoc.sr = false then .next (goHost (.polled .p16) s) else .next (goHost (.polled .p18) s)
  | .p18 => callSub .host .d1 s
  | .p19 => .next (goHost (.polled .p13) s)
  | .p20 => callSub .host .c1 s
  | .p21 => .next (goHost (.polled .p22) (setBusy false s))
  | .p22 => regWrite Config.offEr 0#32 s fun s => .next (goHost (.polled .p23) s)
  | .p23 => .next (hostReturn .polledTransfer (some Config.success) s)

end Sys2Proof.Machine
end

