-- ==== Sys2Proof/Machine/SlaveSelectLines.lean ====
section
/-! DEFINITION. The lines of `SET_SS` (spec/40_slave_select.md R162) and `GET_SS` (R165). -/

namespace Sys2Proof.Machine

/-- `SET_SS`, line by line (R162). -/
def setSsLine (l : SetSsLine) (s : State) : Result :=
  match l with
  | .s1 => checkReady s (.next (goHost (.setSs .s2) s))
  | .s2 => if validIndex s.params s.hostOps.idx then .next (goHost (.setSs .s3) s) else .fault (.badSlaveIndex s)
  | .s3 =>
    if s.engine.isBusy then .next (hostReturn .setSs (some Config.deviceBusy) s) else .next (goHost (.setSs .s4) s)
  | .s4 => .next (goHost (.setSs .s5) { s with engine := { s.engine with slaveSelect := enc s.hostOps.idx } })
  | .s5 => readCrLocal .host (goHost (.setSs .s6)) s
  | .s6 => writeSelect .host (goHost (.setSs .s7)) s
  | .s7 => .next (hostReturn .setSs (some Config.success) s)

/-- `GET_SS`, line by line (R165, R166: the cache, no register access). -/
def getSsLine (l : GetSsLine) (s : State) : Result :=
  match l with
  | .g1 => checkReady s (.next (goHost (.getSs .g2) s))
  | .g2 => .next (hostReturn .getSs (some (dec s.engine.slaveSelect)) s)

end Sys2Proof.Machine
end

