-- ==== Sys2Proof/Machine/Sequencer.lean ====
section
/-! DEFINITION. The sequencer: one line of the Host or of the Handler (spec/10_state.md R45 to R47), an agent's lines with no
step of another agent between them, and the issue of a command (R31, R46). -/

namespace Sys2Proof.Machine

/-- One line of a Host command. -/
def hostLine (l : HostLine) (s : State) : Result :=
  match l with
  | .init l => initLine l s
  | .setStatusHandler l => setStatusHandlerLine l s
  | .setSs l => setSsLine l s
  | .getSs l => getSsLine l s
  | .polled l => polledLine l s
  | .transfer l => transferLine l s
  | .abort l => abortLine l s
  | .reset l => resetLine l s
  | .configure l => configureLine l s

/-- The Host's next line (R46); an idle Host has none. -/
def hostStep (s : State) : Result :=
  match s.hostPc with
  | .idle => .next s
  | .line l => hostLine l s
  | .sub _ q => subLine .host q s

/-- The Handler's next line (R47). -/
def handlerStep (s : State) : Result :=
  match s.handlerPc with
  | .line l => handlerLine l s
  | .sub _ q => subLine .handler q s

/-- An agent's next line. -/
def lineStep (a : Agent) (s : State) : Result :=
  match a with
  | .host => hostStep s
  | .handler => handlerStep s

/-- The agent has a line to run. -/
def running (a : Agent) (s : State) : Bool :=
  match a with
  | .host => decide (s.hostPc ≠ .idle)
  | .handler => s.handlerActive

/-- `n` lines of an agent with no step of another agent between them, fewer if it has returned: one of the schedules R33
allows. -/
def runLines (a : Agent) : Nat → State → Result
  | 0, s => .next s
  | n + 1, s =>
    if running a s then
      match lineStep a s with
      | .next s' => runLines a n s'
      | .fault f => .fault f
      | .refused r => .refused r
    else .next s

/-- An agent's lines for as long as no other agent has a step to take between them; `n` bounds how many are run at once
(notes/assumptions/1.md). -/
def runAhead (a : Agent) : Nat → State → Result
  | 0, s => .next s
  | n + 1, s =>
    if running a s && !otherEnabled s then
      match lineStep a s with
      | .next s' => runAhead a n s'
      | .fault f => .fault f
      | .refused r => .refused r
    else .next s

/-- How many lines are run at once: past the length of every line list, with the four lines of each turn of the abort's
drain loop. The rest of a longer activation follows in later steps, so nothing depends on the number. -/
def aheadBound (s : State) : Nat := 4 * s.dev.rxFifo.length + 64

/-- The Host at the first line of a command with its operands and fresh locals (R46, R48). -/
def started (o : HostOps) (first : HostLine) (s : State) : State :=
  { s with hostPc := .line first, hostOps := o, hostLoc := Locals.fresh }

/-- Issues a Host command: refused from inside a Handler activation (R335) and while another command runs (R31); else the
first line runs, and then the lines that no other agent can come between (notes/assumptions/1.md). Where both refusals apply,
the first is named: DESIGN CHOICE (notes/assumptions/26.md). -/
def issue (o : HostOps) (first : HostLine) (s : State) : Result :=
  if s.handlerActive then .refused .callbackReentry
  else if s.hostPc ≠ .idle then .refused .commandInProgress
  else
    match hostStep (started o first s) with
    | .next s' => runAhead .host (aheadBound s) s'
    | .fault f => .fault f
    | .refused r => .refused r

/-- Issues a transfer: refused before its first line when a buffer meets the register block (R331). No rule orders the
refusals; the model names this one before those of `issue`: DESIGN CHOICE (notes/assumptions/26.md). -/
def issueTransfer (o : HostOps) (first : HostLine) (s : State) : Result :=
  if inRegisterBlock s.engine o then .refused .bufferInRegisterBlock
  else issue o first s

/-- The platform step and the Handler lines that no other agent can come between; where the step is not enabled it does not
occur (R300, notes/assumptions/14.md). -/
def startHandler (s : State) : Result :=
  if startEnabled s then runAhead .handler (aheadBound s) (trapEntry s) else .next s

end Sys2Proof.Machine
end

