-- ==== Sys2Proof/Machine/Interrupt.lean ====
section
/-! DEFINITION. The meanings of `TRANSFER` and `IRQ` (spec/43_interrupt.md). -/

namespace Sys2Proof.Machine

/-- `TRANSFER send, recv, count` (R220). -/
def execTransfer (txv rxv : Bool) (send recv count : Word) (s : State) : Result :=
  issueTransfer (transferOps txv rxv send recv count) (.transfer .t1) s

/-- `IRQ` (R225), issued by the platform (R300). -/
def execIrq (s : State) : Result := startHandler s

end Sys2Proof.Machine
end

