-- ==== Sys2Proof/Machine/Lifecycle.lean ====
section
/-! DEFINITION. The meanings of `INIT`, `SET_STATUS_HANDLER`, `ABORT`, `RESET` and `CONFIGURE`
(spec/44_abort_reset_init.md). -/

namespace Sys2Proof.Machine

/-- `INIT base` (R270). -/
def execInit (base : Word) (s : State) : Result := issue (initOps base) (.init .i1) s

/-- `SET_STATUS_HANDLER handler, ctx` (R275). -/
def execSetStatusHandler (handler ctx : Word) (s : State) : Result :=
  issue (setStatusHandlerOps handler ctx) (.setStatusHandler .k1) s

/-- `ABORT` (R260). -/
def execAbort (s : State) : Result := issue HostOps.none (.abort .a1) s

/-- `RESET` (R265). -/
def execReset (s : State) : Result := issue HostOps.none (.reset .x1) s

/-- `CONFIGURE opts` (R280). -/
def execConfigure (opts : BitVec 3) (s : State) : Result := issue (configureOps opts) (.configure .n1) s

end Sys2Proof.Machine
end

