-- ==== Sys2Proof/Machine/Polled.lean ====
section
/-! DEFINITION. The meaning of `POLLED_TRANSFER` (spec/42_polled.md). -/

namespace Sys2Proof.Machine

/-- `POLLED_TRANSFER send, recv, count` (R200). -/
def execPolledTransfer (txv rxv : Bool) (send recv count : Word) (s : State) : Result :=
  issueTransfer (transferOps txv rxv send recv count) (.polled .p1) s

end Sys2Proof.Machine
end

