-- ==== Sys2Proof/Machine/SlaveSelect.lean ====
section
/-! DEFINITION. The meanings of `SET_SS` and `GET_SS` (spec/40_slave_select.md). -/

namespace Sys2Proof.Machine

/-- `SET_SS idx` (R162). -/
def execSetSs (idx : BitVec 8) (s : State) : Result := issue (setSsOps idx) (.setSs .s1) s

/-- `GET_SS` (R165). -/
def execGetSs (s : State) : Result := issue HostOps.none (.getSs .g1) s

end Sys2Proof.Machine
end

