-- ==== Sys2Proof/Machine/Dispatch.lean ====
section
/-! DEFINITION. One arm per instruction, each a direct call of its meaning. -/

namespace Sys2Proof.Machine

def exec (i : Instr) (s : State) : Host.Outcome State Fault Refusal :=
  match i with
  | .init base => Sys2Proof.Machine.execInit base s
  | .setStatusHandler handler ctx => Sys2Proof.Machine.execSetStatusHandler handler ctx s
  | .setSs idx => Sys2Proof.Machine.execSetSs idx s
  | .getSs => Sys2Proof.Machine.execGetSs s
  | .polledTransfer txv rxv send recv count => Sys2Proof.Machine.execPolledTransfer txv rxv send recv count s
  | .transfer txv rxv send recv count => Sys2Proof.Machine.execTransfer txv rxv send recv count s
  | .abort => Sys2Proof.Machine.execAbort s
  | .reset => Sys2Proof.Machine.execReset s
  | .configure opts => Sys2Proof.Machine.execConfigure opts s
  | .irq => Sys2Proof.Machine.execIrq s

end Sys2Proof.Machine
end

