-- ==== Sys2Proof/Machine/Fetch.lean ====
section
/-! DEFINITION. Taking the next command of the Host's stream (spec/30_encoding.md R120, R126), the sequencer's step, the steps
of the other agents, and placing a command where the next step takes it. -/

namespace Sys2Proof.Machine

/-- The Host takes a command: refused by name when it does not decode or is the platform's; an exhausted stream leaves the
machine as it is (R126, R393, notes/assumptions/15.md). -/
def fetch (s : State) : Result :=
  match s.stream with
  | [] => .next s
  | _ :: _ =>
    match decode s.stream with
    | .illegalCommand => .refused .illegalCommand
    | .truncatedCommand => .refused .truncatedCommand
    | .ok .irq _ => .refused .irqFromHost
    | .ok i rest => exec i { s with stream := rest }

/-- A step of a sequencer: the Handler's line while it is active (R32), else the Host's line, else a fetch (R31). -/
def sequencerStep (s : State) : Result :=
  if s.handlerActive then handlerStep s
  else
    match s.hostPc with
    | .idle => fetch s
    | .line _ => hostStep s
    | .sub _ _ => hostStep s

/-- A drawn move, if its step is enabled (R290); else the sequencer's step (notes/assumptions/2.md). -/
def takeMove (m : Move) (s : State) : Result :=
  match m with
  | .sequencer => sequencerStep s
  | .masterExchange response => if masterEnabled s then .next (masterExchange response s) else sequencerStep s
  | .slaveExchange idle master => if slaveEnabled s then .next (slaveExchange idle master s) else sequencerStep s
  | .modeFault => if modeFaultEnabled s then .next (modeFault s) else sequencerStep s
  | .handlerStart => if startEnabled s then exec .irq s else sequencerStep s

/-- The next draw: the head of the schedule, else the oracle's (R296). -/
def drawMove (s : State) : Move :=
  match s.schedule with
  | m :: _ => m
  | [] => Config.oracle s.tick

/-- The state after a draw. -/
def afterDraw (s : State) : State :=
  match s.schedule with
  | _ :: rest => { s with schedule := rest }
  | [] => { s with tick := s.tick + 1 }

/-- One step of the machine: where another agent could step, the draw says who does; else the sequencer steps (R33, R45). -/
def machineStep (s : State) : Result :=
  if otherEnabled s then takeMove (drawMove s) (afterDraw s) else sequencerStep s

/-- The Host idle, no handler active, and the sequencer drawn next where another agent could step. -/
def readyToFetch (s : State) : State :=
  let idle := { s with hostPc := .idle, hostOps := HostOps.none, hostLoc := Locals.fresh, handlerActive := false }
  if otherEnabled idle then { idle with schedule := .sequencer :: idle.schedule } else idle

/-- The platform ready to start the Handler (R300): the interrupt connected and asserted (by TXRDY, where it is not), no
handler active, and the handler start drawn next. -/
def readyToInterrupt (s : State) : State :=
  let free := { s with handlerActive := false, params := { s.params with irqConnected := true } }
  let pending :=
    if irqLine free.params free.dev then free
    else { free with dev := { free.dev with txFifo := [], imr := unmask Config.bTxrdy free.dev.imr } }
  { pending with schedule := .handlerStart :: pending.schedule }

/-- Places the words of one command where the next step takes it: in the Host's stream, or, for `IRQ`, with the platform
(notes/assumptions/16.md). -/
def placeCommand (words : List Word) (s : State) : State :=
  match decode words with
  | .ok .irq _ => readyToInterrupt s
  | .ok _ rest => { readyToFetch s with stream := words.take (words.length - rest.length) }
  | .illegalCommand => { readyToFetch s with stream := words }
  | .truncatedCommand => { readyToFetch s with stream := words }

end Sys2Proof.Machine
end

