-- ==== Sys2Proof/Machine/Step.lean ====
section
/-! DEFINITION. One step of the machine, and placing a command where the next step takes it. -/

namespace Sys2Proof.Machine

/-- One step: the sequencer's or, where another agent could step, the one the draw names (spec/10_state.md R30 to R33, R45). -/
def step (s : State) : Host.Outcome State Fault Refusal := machineStep s

/-- `s` with the command of the table word `w` placed for the next step (notes/assumptions/16.md). -/
def State.withFetchWord (s : State) (nbits w : Nat) : State := placeCommand (wordsOfBytes (tableBytes nbits w)) s

end Sys2Proof.Machine
end

