-- ==== Sys2Proof/Safety.lean ====
section
/-! DEFINITION. The terms claims are stated in: the launch premise (spec/70_reset_and_hazards.md R363), the end of a run
(R393), states no other agent can disturb, and the invariants of the machine. -/

namespace Sys2Proof.Machine

/-- The clean-entry record of R363: nothing running, not initialised, the register block as after power-on (R64), no event. -/
def Launch (s : State) : Prop :=
  s.hostPc = .idle ∧ s.handlerActive = false ∧ s.engine.isReady = false ∧ s.engine.isBusy = false ∧
    s.dev = Dev.reset ∧ s.trace = []

/-- The end of a run (R393): the Host idle with its stream exhausted, no handler active, no interrupt the platform would take,
and no fair master exchange. -/
def Quiescent (s : State) : Prop :=
  s.hostPc = .idle ∧ s.stream = [] ∧ s.handlerActive = false ∧
    (irqLine s.params s.dev = false ∨ s.params.irqConnected = false) ∧ ¬(masterEnabled s = true ∧ s.dev.modf = false)

/-- The Host can take a command: none is running and no handler is active (R31, R32). -/
def HostFree (s : State) : Prop := s.hostPc = .idle ∧ s.handlerActive = false

/-- No step of the Device, the Far end or the platform is enabled (R290): the device is disabled, and no interrupt is pending
or none is delivered. -/
def Undisturbed (s : State) : Prop :=
  s.dev.en = false ∧ (irqLine s.params s.dev = false ∨ s.params.irqConnected = false)

/-- No byte of `n` bytes at `a` lies past the address space or in the register block of an initialised engine: a buffer the
engine can use (R98, R101). -/
def BufferClear (e : Engine) (a n : Nat) : Prop :=
  a + n ≤ Config.addressLimit ∧ ∀ i, i < n → inBlock e (a + i) = false

/-- The `n` bytes of memory from `a` on, in ascending order (R85). -/
def bytesAt (m : List Host.Cell) (a n : Nat) : List Byte :=
  (List.range n).map fun i => Memory.read m (a + i)

/-- Memory with bytes written from `a` on, in ascending order (R85). -/
def storeBytes : List Host.Cell → Nat → List Byte → List Host.Cell
  | m, _, [] => m
  | m, a, b :: bs => storeBytes (Memory.write m a b) (a + 1) bs

/-- The bytes queued since the last drain: what the next drain of a Handler activation takes (R228). -/
def batchInFlight (s : State) : Nat := (s.engine.requestedBytes - s.engine.remainingBytes).toNat

/-- Buffer memory after a drain of `k` bytes: the head of the RX FIFO, then the bytes drawn past its end, stored from the
receive cursor on; memory as it was, without a receive buffer (R95, R183). -/
def drainedMemory (s : State) (k : Nat) (drawn : List Byte) : List Host.Cell :=
  match s.engine.recvBuffer with
  | none => s.mem
  | some r => storeBytes s.mem r (s.dev.rxFifo.take k ++ drawn)

/-- Exchanges one after another with the bytes the other side sends, each of them enabled (R290) and with a byte queued, so
that a slave exchange sends no idle byte (R291, R292). -/
def exchanges : List Byte → State → Option State
  | [], s => some s
  | b :: bs, s =>
    if masterEnabled s then exchanges bs (masterExchange b s)
    else if slaveEnabled s && !s.dev.txFifo.isEmpty then exchanges bs (slaveExchange b b s)
    else none

/-- The agent stands at a line of a sub-sequence, whichever line called it (R180). -/
def AtSub (a : Agent) (q : SubLine) (s : State) : Prop :=
  match a with
  | .host => ∃ c, s.hostPc = .sub c q
  | .handler => ∃ c, s.handlerPc = .sub c q

/-- The agent stands at `D4`, the only line that writes buffer memory (R81). -/
def AtStore (a : Agent) (s : State) : Prop := AtSub a .d4 s

/-- What a Host command's meaning leaves alone in every case: the parameters, every byte of buffer memory, the stream, the
Handler and the schedule; the trace only grows. -/
structure HostFrame (s t : State) : Prop where
  params : t.params = s.params
  mem : ∀ a, Memory.read t.mem a = Memory.read s.mem a
  stream : t.stream = s.stream
  handlerActive : t.handlerActive = s.handlerActive
  handlerPc : t.handlerPc = s.handlerPc
  handlerLoc : t.handlerLoc = s.handlerLoc
  schedule : t.schedule = s.schedule
  trace : s.trace <+: t.trace

/-- An event that is no callback. -/
def notCallback : Event → Bool
  | .cb _ _ _ _ => false
  | _ => true

/-- An event that is a callback. -/
def isCallback (e : Event) : Bool := !notCallback e

/-- The callbacks of the overrun and the underrun checks of an activation that starts in `s`, in their order (R231 to R233). -/
def errorCallbacks (s : State) (id count : Word) : List Event :=
  (if s.dev.rxovr then [.cb s.engine.callbackContext id .receiveOverrun count] else []) ++
    (if s.dev.txuf then [.cb s.engine.callbackContext id .transmitUnderrun count] else [])

/-- The commands the Host may issue: all but `IRQ` (R126). -/
def hostCommand : Instr → Bool
  | .irq => false
  | _ => true

/-- The first line of a Host command; `IRQ`, which is not the Host's, is given none. -/
def firstLine : Instr → Option HostLine
  | .init _ => some (.init .i1)
  | .setStatusHandler _ _ => some (.setStatusHandler .k1)
  | .setSs _ => some (.setSs .s1)
  | .getSs => some (.getSs .g1)
  | .polledTransfer _ _ _ _ _ => some (.polled .p1)
  | .transfer _ _ _ _ _ => some (.transfer .t1)
  | .abort => some (.abort .a1)
  | .reset => some (.reset .x1)
  | .configure _ => some (.configure .n1)
  | .irq => none

/-- The operands a Host command starts with. -/
def operands : Instr → HostOps
  | .init base => initOps base
  | .setStatusHandler handler ctx => setStatusHandlerOps handler ctx
  | .setSs idx => setSsOps idx
  | .polledTransfer txv rxv send recv count => transferOps txv rxv send recv count
  | .transfer txv rxv send recv count => transferOps txv rxv send recv count
  | .configure opts => configureOps opts
  | .getSs | .abort | .reset | .irq => HostOps.none

/-- `n` lines of a Host command from its first on, with no step of another agent between them, fewer if it returns: one of the
schedules R33 allows, from any state of the device. -/
def commandLines (i : Instr) (n : Nat) (s : State) : Result :=
  match firstLine i with
  | some l => runLines .host n (started (operands i) l s)
  | none => .next s

/-- `n` steps of the machine. -/
def steps : Nat → State → Result
  | 0, s => .next s
  | n + 1, s =>
    match step s with
    | .next t => steps n t
    | .fault f => .fault f
    | .refused r => .refused r

/-! ### Invariants -/

/-- Buffer memory has its canonical form. -/
def MemoryOk (s : State) : Prop := Memory.wf s.mem

/-- `CR` holds no bit that is not stored (R89), neither FIFO holds more than `D` bytes (R54), and only an enabled device has a
start armed (R93, R293). -/
def BlockOk (s : State) : Prop :=
  crStored s.dev.cr = s.dev.cr ∧ s.dev.txFifo.length ≤ fifoDepth s.params ∧ s.dev.rxFifo.length ≤ fifoDepth s.params ∧
    (s.dev.startArmed = true → s.dev.en = true)

/-- The cached selection has at most one line low (R168). -/
def SelectOk (s : State) : Prop := (clearBits s.engine.slaveSelect).length ≤ 1

/-- A registered handler id is not 0 (R34, R325), and neither is the one about to be registered. -/
def CallbackOk (s : State) : Prop :=
  s.engine.statusCallback ≠ .registered 0#32 ∧
    (s.hostPc = .line (.setStatusHandler .k3) ∨ s.hostPc = .line (.setStatusHandler .k4) → s.hostOps.handler ≠ 0#32)

/-- The base address is 4-aligned (R34, R97), and so is the one about to be bound. -/
def BaseOk (s : State) : Prop :=
  s.engine.baseAddress.toNat % 4 = 0 ∧
    (s.hostPc = .line (.init .i2) ∨ s.hostPc = .line (.init .i3) → s.hostOps.base.toNat % 4 = 0)

/-- A send buffer is present while a transfer is active (R44): while busy, but at the line after the claim, which installs it;
the operand is present from its check to that line, and `INIT` removes the buffers only when not busy. -/
def SendOk (s : State) : Prop :=
  (s.engine.isBusy = true →
    s.engine.sendBuffer ≠ none ∨ s.hostPc = .line (.polled .p7) ∨ s.hostPc = .line (.transfer .t7)) ∧
  (s.hostPc ∈ [HostPc.line (.polled .p3), .line (.polled .p4), .line (.polled .p5), .line (.polled .p6),
      .line (.polled .p7), .line (.transfer .t3), .line (.transfer .t4), .line (.transfer .t5), .line (.transfer .t6),
      .line (.transfer .t7)] → s.hostOps.send ≠ none) ∧
  (s.hostPc ∈ [HostPc.line (.init .i3), .line (.init .i4), .line (.init .i5)] → s.engine.isBusy = false)

/-- The sub-sequences (R180). -/
inductive SubSequence where
  | fill
  | drain
  | startIfManual
  | deassertIfManual
  | abortSeq
  deriving DecidableEq, Repr

/-- Which sub-sequence a line belongs to. -/
def SubLine.sequence : SubLine → SubSequence
  | .f1 | .f2 | .f3 | .f4 | .f5 | .f6 | .f7 => .fill
  | .d1 | .d2 | .d3 | .d4 | .d5 | .d6 | .d7 => .drain
  | .m1 | .m2 | .m3 => .startIfManual
  | .c1 | .c2 | .c3 => .deassertIfManual
  | .a2 | .a3 | .a4 | .a5 | .a6 | .a7 | .a8 | .a9 => .abortSeq

/-- Which sub-sequence a Host line calls. -/
def hostCalls : HostLine → Option SubSequence
  | .init .i8 => some .abortSeq
  | .polled .p14 => some .fill
  | .polled .p15 => some .startIfManual
  | .polled .p18 => some .drain
  | .polled .p20 => some .deassertIfManual
  | .transfer .t13 => some .fill
  | .transfer .t16 => some .startIfManual
  | .abort .a2 => some .abortSeq
  | .reset .x2 => some .abortSeq
  | _ => none

/-- Which sub-sequence a Handler line calls. -/
def handlerCalls : HandlerLine → Option SubSequence
  | .h6 => some .abortSeq
  | .h10 => some .drain
  | .h11 => some .fill
  | .h14 => some .deassertIfManual
  | .h19 => some .startIfManual
  | .h23 => some .deassertIfManual
  | .h28 => some .deassertIfManual
  | _ => none

/-- An agent stands at a line that calls a sub-sequence. -/
def Calls (a : Agent) (q : SubSequence) (s : State) : Prop :=
  match a with
  | .host => ∃ l, s.hostPc = .line l ∧ hostCalls l = some q
  | .handler => s.handlerActive = true ∧ ∃ l, s.handlerPc = .line l ∧ handlerCalls l = some q

/-- The agent stands at the line after the one it called a sub-sequence from (R180). -/
def ReturnedFrom (a : Agent) (s t : State) : Prop :=
  match a with
  | .host => ∀ l, s.hostPc = .line l → t.hostPc = .line (afterHostCall l)
  | .handler => ∀ l, s.handlerPc = .line l → t.handlerPc = .line (afterHandlerCall l)

/-- A Host position: inside a sub-sequence only under a line that calls it (R180). -/
def hostPositionOk : HostPc → Bool
  | .idle => true
  | .line _ => true
  | .sub caller q => decide (hostCalls caller = some q.sequence)

/-- A Handler position, likewise. -/
def handlerPositionOk : HandlerPc → Bool
  | .line _ => true
  | .sub caller q => decide (handlerCalls caller = some q.sequence)

/-- Both sequencers stand at positions the line lists have (R180). -/
def PositionsOk (s : State) : Prop :=
  hostPositionOk s.hostPc = true ∧ handlerPositionOk s.handlerPc = true

/-- No local survives its activation (R48); that no operand does, and that an inactive Handler stands at `H1`, is
notes/assumptions/19.md (DESIGN CHOICE). -/
def LocalsOk (s : State) : Prop :=
  (s.hostPc = .idle → s.hostOps = HostOps.none ∧ s.hostLoc = Locals.fresh) ∧
    (s.handlerActive = false → s.handlerPc = .line .h1 ∧ s.handlerLoc = Locals.fresh)

end Sys2Proof.Machine
end

