-- ==== Sys2Proof/Certificates/Slice0/Obligations.lean ====
section
/-! DEFINITION. The statements about SPI-TE. Each docstring names the rules of spec/ it rests on. -/

open Sys2Proof Sys2Proof.Machine

/-! ### The command stream -/

/-- R121, R125 to R128: the words of a well-formed command decode to it, whatever words follow them, and its bytes decode to
it, whatever bytes follow them. -/
def Obligations.DecodeOfEncode : Prop :=
  ∀ i : Instr, i.wellFormed = true →
    (∀ rest : List Word, decode (encode i ++ rest) = .ok i rest) ∧
    (∀ rest : List Byte, decodeBytes (encodeBytes i ++ rest) = .ok i (wordsOfBytes rest))

/-- R125 to R128: what decodes is the encoding of a well-formed command, followed by the words left over. -/
def Obligations.EncodeOfDecode : Prop :=
  ∀ (words : List Word) (i : Instr) (rest : List Word),
    decode words = .ok i rest → i.wellFormed = true ∧ words = encode i ++ rest

/-- R125: a command word that decodes is admitted by the row of its command in the command map, and by no other row. -/
def Obligations.DecodedWordMatchesOneRow : Prop :=
  ∀ (cw : Word) (args : List Word) (i : Instr) (rest : List Word), decode (cw :: args) = .ok i rest →
    ∃ r ∈ opcodeTable, r.command = i.command ∧ r.admits cw = true ∧
      ∀ r' ∈ opcodeTable, r'.admits cw = true → r' = r

/-- R125, R128: words written out from the encoding tables decode to the commands they stand for, one of every family. -/
def Obligations.WrittenOutWordsDecode : Prop :=
  decode [0x00000001#32, 0xE0006000#32] = .ok (.init 0xE0006000#32) [] ∧
  decode [0x00000002#32, 0x42#32, 0xC0FFEE00#32] = .ok (.setStatusHandler 0x42#32 0xC0FFEE00#32) [] ∧
  decode [0x00000103#32] = .ok (.setSs 1#8) [] ∧
  decode [0x00030005#32, 0x1000#32, 0x2000#32, 6#32] = .ok (.polledTransfer true true 0x1000#32 0x2000#32 6#32) [] ∧
  decode [0x00010006#32, 0x1000#32, 0#32, 10#32] = .ok (.transfer true false 0x1000#32 0#32 10#32) [] ∧
  decode [0x00000007#32] = .ok .abort [] ∧
  decode [0x00000709#32] = .ok (.configure 7#3) []

/-- R126: the reserved and the illegal encodings are refused as `IllegalCommand`, a stream that ends inside a command that
none of those checks refuses as `TruncatedCommand`. -/
def Obligations.IllegalEncodingsRefused : Prop :=
  ∀ (cw : Word) (args : List Word),
    (cwRsv cw ≠ 0#14 → decode (cw :: args) = .illegalCommand) ∧
    (cwOpc cw = 0x00#8 ∨ 0x0B#8 ≤ cwOpc cw → decode (cw :: args) = .illegalCommand) ∧
    (cwOpc cw ≠ 0x03#8 → cwOpc cw ≠ 0x09#8 → cwArg8 cw ≠ 0#8 → decode (cw :: args) = .illegalCommand) ∧
    (cwOpc cw = 0x09#8 → (cwArg8 cw).extractLsb' 3 5 ≠ 0#5 → decode (cw :: args) = .illegalCommand) ∧
    (cwOpc cw ≠ 0x05#8 → cwOpc cw ≠ 0x06#8 → cwTxv cw = true ∨ cwRxv cw = true →
      decode (cw :: args) = .illegalCommand) ∧
    (∀ send recv rest, args = send :: recv :: rest → rest ≠ [] → cwOpc cw = 0x05#8 ∨ cwOpc cw = 0x06#8 →
      (cwTxv cw = false ∧ send ≠ 0#32) ∨ (cwRxv cw = false ∧ recv ≠ 0#32) →
      decode (cw :: args) = .illegalCommand) ∧
    (∀ c, commandOfOpc (cwOpc cw) = some c → cwRsv cw = 0#14 → arg8Ok c (cwArg8 cw) = true →
      validBitsOk c (cwTxv cw) (cwRxv cw) = true → args.length < c.nargs → decode (cw :: args) = .truncatedCommand)

/-! ### Steps and commands -/

/-- R31, R120 (and notes/assumptions/1.md, 2.md for how the model draws): a free Host takes the next command of its stream,
and the step is that command's meaning in the state with its words taken; where another agent could step, so it is when the
draw leaves the step to the sequencer. -/
def Obligations.StepRunsDecodedCommand : Prop :=
  ∀ (s : State) (i : Instr) (rest : List Word), HostFree s → decode s.stream = .ok i rest → hostCommand i = true →
    (otherEnabled s = false → step s = exec i { s with stream := rest }) ∧
    (∀ moves, otherEnabled s = true → s.schedule = .sequencer :: moves →
      step s = exec i { s with stream := rest, schedule := moves })

/-- R126 (and notes/assumptions/2.md for how the model draws): a stream that starts with `IRQ`, or whose first command is
refused by the decoder, refuses the Host's step by name: where no other agent could step, and where one could and the draw
leaves the step to the sequencer. -/
def Obligations.StepRefusesBadStream : Prop :=
  ∀ s : State, HostFree s → s.stream ≠ [] →
    otherEnabled s = false ∨ (otherEnabled s = true ∧ ∃ moves, s.schedule = .sequencer :: moves) →
    (∀ rest, decode s.stream = .ok .irq rest → step s = .refused .irqFromHost) ∧
    (decode s.stream = .illegalCommand → step s = .refused .illegalCommand) ∧
    (decode s.stream = .truncatedCommand → step s = .refused .truncatedCommand)

/-- R33, R290, R300 (and notes/assumptions/2.md for how the model draws): when each step of the Device, the Far end and the
platform is enabled; where one is, a drawn master exchange, slave exchange, mode fault or handler start that is enabled is the
step (a handler start is the meaning of `IRQ`), and one that is not enabled is not taken: the sequencer steps. Where none is
enabled, the sequencer steps and nothing is drawn. -/
def Obligations.StepTakesDrawnMove : Prop :=
  ∀ s : State,
    (masterEnabled s = true ↔ s.dev.en = true ∧ crMstren s.dev.cr = true ∧ s.dev.txFifo ≠ [] ∧
      (crManstrtEn s.dev.cr = false ∨ s.dev.startArmed = true)) ∧
    (slaveEnabled s = true ↔ s.dev.en = true ∧ crMstren s.dev.cr = false) ∧
    (modeFaultEnabled s = true ↔ s.dev.en = true ∧ crMstren s.dev.cr = true) ∧
    (startEnabled s = true ↔
      irqLine s.params s.dev = true ∧ s.handlerActive = false ∧ s.params.irqConnected = true) ∧
    (otherEnabled s = true ↔
      masterEnabled s = true ∨ slaveEnabled s = true ∨ modeFaultEnabled s = true ∨ startEnabled s = true) ∧
    (otherEnabled s = false → step s = sequencerStep s) ∧
    (∀ (u : State) (m : Move) (moves : List Move), otherEnabled s = true → s.schedule = m :: moves →
      u = { s with schedule := moves } →
      (∀ response, m = .masterExchange response →
        step s = if masterEnabled s then .next (masterExchange response u) else sequencerStep u) ∧
      (∀ idle master, m = .slaveExchange idle master →
        step s = if slaveEnabled s then .next (slaveExchange idle master u) else sequencerStep u) ∧
      (m = .modeFault → step s = if modeFaultEnabled s then .next (modeFault u) else sequencerStep u) ∧
      (m = .handlerStart → step s = if startEnabled s then exec .irq u else sequencerStep u))

/-- R32, R45, R46, R47: a step of the sequencer is the Handler's next line while the Handler is active, else the next line of
the running command. -/
def Obligations.StepRunsOneLine : Prop :=
  ∀ s : State,
    (s.handlerActive = true →
      (otherEnabled s = false → step s = handlerStep s) ∧
      (∀ moves, otherEnabled s = true → s.schedule = .sequencer :: moves →
        step s = handlerStep { s with schedule := moves })) ∧
    (s.handlerActive = false → s.hostPc ≠ .idle →
      (otherEnabled s = false → step s = hostStep s) ∧
      (∀ moves, otherEnabled s = true → s.schedule = .sequencer :: moves →
        step s = hostStep { s with schedule := moves }))

/-! ### What the commands do, and where they complete -/

/-- R162: `SET_SS` with a valid index on an idle engine caches the encoded pattern and writes it into `CR.SS`, every other
`CR` field as read, arms no start, and returns `SUCCESS`: its lines with no step of another agent between them, from any state
of the device, and its meaning where no other agent can step. -/
def Obligations.SetSsSelectsLine : Prop :=
  ∀ (s t : State) (idx : BitVec 8), s.engine.isReady = true → s.engine.isBusy = false →
    validIndex s.params (idx.setWidth 32) = true →
    t = { s with
      engine := { s.engine with slaveSelect := enc (idx.setWidth 32) }
      dev := { s.dev with cr := crWithSs (crStored s.dev.cr) (enc (idx.setWidth 32)) }
      hostPc := .idle
      hostOps := HostOps.none
      hostLoc := Locals.fresh
      trace := s.trace ++ [.rdReg Config.offCr (crStored s.dev.cr),
        .wrReg Config.offCr (crWithSs (crStored s.dev.cr) (enc (idx.setWidth 32))),
        .ret .setSs (some Config.success)] } →
    (∃ n, commandLines (.setSs idx) n s = .next t) ∧ (HostFree s → Undisturbed s → exec (.setSs idx) s = .next t)

/-- R163: `SET_SS` with a valid index while busy returns `DEVICE_BUSY` and modifies neither the cached nor the hardware
selection, nor anything else: its lines with no step of another agent between them, from any state of the device, and its
meaning where no other agent can step. -/
def Obligations.SetSsWhileBusyReturnsBusy : Prop :=
  ∀ (s t : State) (idx : BitVec 8), s.engine.isReady = true → s.engine.isBusy = true →
    validIndex s.params (idx.setWidth 32) = true →
    t = { s with
      hostPc := .idle
      hostOps := HostOps.none
      hostLoc := Locals.fresh
      trace := s.trace ++ [.ret .setSs (some Config.deviceBusy)] } →
    (∃ n, commandLines (.setSs idx) n s = .next t) ∧ (HostFree s → Undisturbed s → exec (.setSs idx) s = .next t)

/-- R165, R166: `GET_SS` returns the decoded cache, busy or not, with no register access and no state written: its lines with
no step of another agent between them, from any state of the device, and its meaning where no other agent can step. -/
def Obligations.GetSsReturnsCachedLine : Prop :=
  ∀ s t : State, s.engine.isReady = true →
    t = { s with
      hostPc := .idle
      hostOps := HostOps.none
      hostLoc := Locals.fresh
      trace := s.trace ++ [.ret .getSs (some (dec s.engine.slaveSelect))] } →
    (∃ n, commandLines .getSs n s = .next t) ∧ (HostFree s → Undisturbed s → exec .getSs s = .next t)

/-- R167: after a `SET_SS k` that returned `SUCCESS`, `GET_SS` returns `k`, for every valid line and for `SS_NONE`: by their
lines with no step of another agent between them, from any state of the device, and by their meanings where no other agent
can step. -/
def Obligations.SelectRoundTrip : Prop :=
  ∀ (s : State) (idx : BitVec 8), s.engine.isReady = true → s.engine.isBusy = false →
    validIndex s.params (idx.setWidth 32) = true →
    ∃ t u, (∃ m, commandLines (.setSs idx) m s = .next t) ∧ (∃ n, commandLines .getSs n t = .next u) ∧
      t.trace.getLast? = some (.ret .setSs (some Config.success)) ∧
      u.trace = t.trace ++ [.ret .getSs (some (idx.setWidth 32))] ∧
      (HostFree s → Undisturbed s → exec (.setSs idx) s = .next t ∧ exec .getSs t = .next u)

/-- R160, R161, R168: `enc` lowers exactly the line of its index and none for `SS_NONE`; `dec` finds the one low line, and
answers `SS_NONE` when none or more than one is low. -/
def Obligations.SelectPatternsEncodeAndDecode : Prop :=
  (∀ k : Word, k.toNat < 4 → ∀ j, j < 4 → ((enc k).getLsbD j = true ↔ j ≠ k.toNat)) ∧
  enc Config.ssNone = 0xF#4 ∧
  (∀ (v : BitVec 4) (i : Nat), clearBits v = [i] → dec v = BitVec.ofNat 32 i) ∧
  (∀ v : BitVec 4, (clearBits v).length ≠ 1 → dec v = Config.ssNone)

/-- R63 (with the register block of R65): what `INIT` leaves when it returns `SUCCESS`, and its returning so on an idle
engine with an aligned base: its lines with no step of another agent between them, from any state of the device, and its
meaning where no other agent can step. -/
def Obligations.InitBindsInstance : Prop :=
  ∀ (s : State) (base : Word), s.engine.isBusy = false → base.toNat % 4 = 0 →
    ∃ t, (∃ n, commandLines (.init base) n s = .next t) ∧
      (HostFree s → Undisturbed s → BlockOk s → exec (.init base) s = .next t) ∧
      t.engine = { s.engine with
        baseAddress := base
        isReady := true
        isBusy := false
        sendBuffer := none
        recvBuffer := none
        requestedBytes := 0#32
        remainingBytes := 0#32
        slaveSelect := enc Config.ssNone
        statusCallback := .stub
        callbackContext := 0#32 } ∧
      t.dev = { s.dev with
        en := false, startArmed := false, rxFifo := [], modf := false, cr := Config.crReset } ∧
      t.mem = s.mem ∧ t.hostPc = .idle ∧ t.trace.getLast? = some (.ret .init (some Config.success))

/-- R272: `INIT` while busy returns `ALREADY_STARTED` before any write: its lines with no step of another agent between them,
from any state of the device, and its meaning where no other agent can step. -/
def Obligations.InitWhileBusyChangesNothing : Prop :=
  ∀ (s t : State) (base : Word), s.engine.isBusy = true → base.toNat % 4 = 0 →
    t = { s with
      hostPc := .idle
      hostOps := HostOps.none
      hostLoc := Locals.fresh
      trace := s.trace ++ [.ret .init (some Config.alreadyStarted)] } →
    (∃ n, commandLines (.init base) n s = .next t) ∧ (HostFree s → Undisturbed s → exec (.init base) s = .next t)

/-- R275, R276: `SET_STATUS_HANDLER` with a nonzero handler stores the pair, busy or not, with no register access: its lines
with no step of another agent between them, from any state of the device, and its meaning where no other agent can step. -/
def Obligations.SetStatusHandlerRegistersPair : Prop :=
  ∀ (s t : State) (handler ctx : Word), s.engine.isReady = true → handler ≠ 0#32 →
    t = { s with
      engine := { s.engine with callbackContext := ctx, statusCallback := .registered handler }
      hostPc := .idle
      hostOps := HostOps.none
      hostLoc := Locals.fresh
      trace := s.trace ++ [.ret .setStatusHandler none] } →
    (∃ n, commandLines (.setStatusHandler handler ctx) n s = .next t) ∧
    (HostFree s → Undisturbed s → exec (.setStatusHandler handler ctx) s = .next t)

/-- R280, R281: `CONFIGURE` on an idle engine writes the three option bits over the value read, and arms no start; while busy
it returns `DEVICE_BUSY` and changes nothing: its lines with no step of another agent between them, from any state of the
device, and, on an idle engine, its meaning where no other agent can step. -/
def Obligations.ConfigureWritesOptions : Prop :=
  ∀ (s : State) (opts : BitVec 3), s.engine.isReady = true →
    (s.engine.isBusy = false → ∃ t, (∃ n, commandLines (.configure opts) n s = .next t) ∧
      (HostFree s → Undisturbed s → exec (.configure opts) s = .next t) ∧
      t = { s with
        dev := { s.dev with cr := t.dev.cr }
        hostPc := .idle
        hostOps := HostOps.none
        hostLoc := Locals.fresh
        trace := s.trace ++ [.rdReg Config.offCr (crStored s.dev.cr), .wrReg Config.offCr t.dev.cr,
          .ret .configure (some Config.success)] } ∧
      crMstren t.dev.cr = opts.getLsbD 0 ∧ crManualCs t.dev.cr = opts.getLsbD 1 ∧
      crManstrtEn t.dev.cr = opts.getLsbD 2 ∧ crSs t.dev.cr = crSs s.dev.cr ∧
      (∀ j, j ≠ 0 → j ≠ 14 → j ≠ 15 → t.dev.cr.getLsbD j = (crStored s.dev.cr).getLsbD j)) ∧
    (s.engine.isBusy = true → ∃ n, commandLines (.configure opts) n s = .next { s with
      hostPc := .idle
      hostOps := HostOps.none
      hostLoc := Locals.fresh
      trace := s.trace ++ [.ret .configure (some Config.deviceBusy)] })

/-- R260, R261, R262, R263: `ABORT` comes to an end from any state of the device, enabled or not: it leaves the device disabled
with nothing armed, the RX FIFO empty, MODF clear, both counters 0 and not busy; it keeps everything else of the engine and
of the register block, and returns no value. So its lines with no step of another agent between them, and its meaning where
no other agent can step. -/
def Obligations.AbortNormalises : Prop :=
  ∀ s : State, s.engine.isReady = true →
    ∃ t, (∃ n, commandLines .abort n s = .next t) ∧
      (HostFree s → Undisturbed s → BlockOk s → exec .abort s = .next t) ∧
      t.engine = { s.engine with isBusy := false, requestedBytes := 0#32, remainingBytes := 0#32 } ∧
      t.dev = { s.dev with en := false, startArmed := false, rxFifo := [], modf := false } ∧
      t.mem = s.mem ∧ t.hostPc = .idle ∧ t.trace.getLast? = some (.ret .abort none)

/-- R65, R265, R266: what `RESET` leaves: the state `ABORT` leaves, and `CR` at its reset value; RXOVR, TXUF, the mask and the
TX FIFO keep the values they had. So its lines with no step of another agent between them, from any state of the device, and
its meaning where no other agent can step. -/
def Obligations.ResetRestoresControl : Prop :=
  ∀ s : State, s.engine.isReady = true →
    ∃ t, (∃ n, commandLines .reset n s = .next t) ∧
      (HostFree s → Undisturbed s → BlockOk s → exec .reset s = .next t) ∧
      t.engine = { s.engine with isBusy := false, requestedBytes := 0#32, remainingBytes := 0#32 } ∧
      t.dev = { s.dev with
        en := false, startArmed := false, rxFifo := [], modf := false, cr := Config.crReset } ∧
      t.mem = s.mem ∧ t.hostPc = .idle ∧ t.trace.getLast? = some (.ret .reset none)

/-- R200: an accepted `POLLED_TRANSFER` claims the engine, installs buffers and counters, applies the cached selection when
manual chip-select is configured and enables the device; it then stands at the loop head `P13`, because from there on the
bus can step between its lines (notes/assumptions/1.md): its lines to there with no step of another agent between them, from
any state of the device (an enabled one too, R379), and its meaning where no other agent can step. -/
def Obligations.PolledTransferStarts : Prop :=
  ∀ (s : State) (rxv : Bool) (send recv count : Word), s.engine.isReady = true →
    s.engine.isBusy = false → count ≠ 0#32 → bufWraps send.toNat count.toNat = false →
    bufferWraps (bufferOperand rxv recv) count.toNat = false →
    inRegisterBlock s.engine (transferOps true rxv send recv count) = false →
    ∃ t, (∃ n, commandLines (.polledTransfer true rxv send recv count) n s = .next t) ∧
      (HostFree s → Undisturbed s → exec (.polledTransfer true rxv send recv count) s = .next t) ∧
      t.engine = { s.engine with
        isBusy := true
        sendBuffer := some send.toNat
        recvBuffer := bufferOperand rxv recv
        requestedBytes := count
        remainingBytes := count } ∧
      t.dev = { s.dev with
        en := true
        cr := if crManualCs s.dev.cr then crWithSs (crStored s.dev.cr) s.engine.slaveSelect else s.dev.cr } ∧
      t.mem = s.mem ∧ t.hostPc = .line (.polled .p13)

/-- R220: an accepted `TRANSFER` likewise, with the total noted when `COMPLETE_COUNT` is `TOTAL`; it then stands at its first
fill, because from there on the bus can step between its lines (notes/assumptions/1.md). -/
def Obligations.TransferStarts : Prop :=
  ∀ (s : State) (rxv : Bool) (send recv count : Word), s.engine.isReady = true →
    s.engine.isBusy = false → count ≠ 0#32 → bufWraps send.toNat count.toNat = false →
    bufferWraps (bufferOperand rxv recv) count.toNat = false →
    inRegisterBlock s.engine (transferOps true rxv send recv count) = false →
    ∃ t, (∃ n, commandLines (.transfer true rxv send recv count) n s = .next t) ∧
      (HostFree s → Undisturbed s → exec (.transfer true rxv send recv count) s = .next t) ∧
      t.engine = { s.engine with
        isBusy := true
        sendBuffer := some send.toNat
        recvBuffer := bufferOperand rxv recv
        requestedBytes := count
        remainingBytes := count
        totalBytes := match s.params.completeCount with
          | .zero => s.engine.totalBytes
          | .total => count } ∧
      t.dev = { s.dev with
        en := true
        cr := if crManualCs s.dev.cr then crWithSs (crStored s.dev.cr) s.engine.slaveSelect else s.dev.cr } ∧
      t.mem = s.mem ∧ t.hostPc = .line (.transfer .t13)

/-- R185, R187, R220, R222: run with no step of another agent between its lines, `TRANSFER` applies the cached selection when
manual chip-select is configured, queues one batch of `min(D, COUNT)` bytes, clears the sticky flags, unmasks `IRQ_XFER`, arms
a start when manual start is configured in master mode, and returns `SUCCESS`, having drained nothing. -/
def Obligations.TransferLinesQueueOneBatch : Prop :=
  ∀ (s : State) (rxv : Bool) (send recv count : Word), s.engine.isReady = true → s.engine.isBusy = false →
    count ≠ 0#32 → bufferWraps (bufferOperand rxv recv) count.toNat = false →
    BufferClear s.engine send.toNat count.toNat →
    s.dev.txFifo.length + min (fifoDepth s.params) count.toNat ≤ fifoDepth s.params →
    ∃ n t, commandLines (.transfer true rxv send recv count) n s = .next t ∧
      t.hostPc = .idle ∧ t.trace.getLast? = some (.ret .transfer (some Config.success)) ∧ t.mem = s.mem ∧
      t.engine.isBusy = true ∧ t.engine.requestedBytes = count ∧ t.engine.recvBuffer = bufferOperand rxv recv ∧
      t.engine.remainingBytes.toNat = count.toNat - min (fifoDepth s.params) count.toNat ∧
      t.engine.sendBuffer = some (send.toNat + min (fifoDepth s.params) count.toNat) ∧
      t.dev.txFifo = s.dev.txFifo ++ bytesAt s.mem send.toNat (min (fifoDepth s.params) count.toNat) ∧
      t.dev.rxFifo = s.dev.rxFifo ∧ t.dev.en = true ∧ t.dev.rxovr = false ∧ t.dev.modf = false ∧ t.dev.txuf = false ∧
      t.dev.imr = s.dev.imr ||| 0x47#7 ∧
      crStored t.dev.cr =
        (if crManualCs s.dev.cr then crWithSs (crStored s.dev.cr) s.engine.slaveSelect else crStored s.dev.cr) ∧
      t.dev.startArmed = (s.dev.startArmed || (crManstrtEn s.dev.cr && crMstren s.dev.cr))

/-- R201: both transfers, started while busy with their preconditions met, return `DEVICE_BUSY` and leave the transfer state
untouched: their lines with no step of another agent between them, from any state of the device, and their meanings where no
other agent can step. -/
def Obligations.TransfersWhileBusyReturnBusy : Prop :=
  ∀ (s t u : State) (rxv : Bool) (send recv count : Word), s.engine.isReady = true → s.engine.isBusy = true →
    count ≠ 0#32 → bufWraps send.toNat count.toNat = false →
    bufferWraps (bufferOperand rxv recv) count.toNat = false →
    inRegisterBlock s.engine (transferOps true rxv send recv count) = false →
    t = { s with
      hostPc := .idle
      hostOps := HostOps.none
      hostLoc := Locals.fresh
      trace := s.trace ++ [.ret .polledTransfer (some Config.deviceBusy)] } →
    u = { s with
      hostPc := .idle
      hostOps := HostOps.none
      hostLoc := Locals.fresh
      trace := s.trace ++ [.ret .transfer (some Config.deviceBusy)] } →
    (∃ n, commandLines (.polledTransfer true rxv send recv count) n s = .next t) ∧
    (∃ n, commandLines (.transfer true rxv send recv count) n s = .next u) ∧
    (HostFree s → Undisturbed s →
      exec (.polledTransfer true rxv send recv count) s = .next t ∧ exec (.transfer true rxv send recv count) s = .next u)

/-- R341: trap entry, the meaning of `IRQ` while the platform step is enabled and the device can step, where `exec` runs no
line of the Handler (notes/assumptions/1.md): `handlerActive` and `handlerPc` are set, nothing is saved, and no mask, no
register and nothing of the Host changes. -/
def Obligations.IrqEntersHandler : Prop :=
  ∀ s : State, startEnabled s = true → s.dev.en = true →
    exec .irq s = .next { s with
      handlerActive := true
      handlerPc := .line .h1
      handlerLoc := Locals.fresh
      trace := s.trace ++ [.ext .irq] }

/-- R237: a start with TXRDY unmasked and pending, no sticky flag set and no transfer in flight, of a disabled device: the
whole activation runs in one `exec`, because no other agent can step between its lines (notes/assumptions/1.md), drains
nothing, fills nothing, takes the completion path, and issues `TRANSFER_DONE` with the count R235 gives; the Host is where it
stood. -/
def Obligations.IdleIrqReportsTransferDone : Prop :=
  ∀ (s : State) (id : Word), s.handlerActive = false → s.params.irqConnected = true → s.dev.en = false →
    s.dev.txFifo = [] → s.dev.imr.getLsbD 2 = true → s.dev.modf = false → s.dev.rxovr = false → s.dev.txuf = false →
    s.engine.requestedBytes = 0#32 → s.engine.remainingBytes = 0#32 → s.engine.statusCallback = .registered id →
    ∃ t, exec .irq s = .next t ∧
      t.trace.getLast? = some (.cb s.engine.callbackContext id .transferDone
        (match s.params.completeCount with
          | .zero => 0#32
          | .total => s.engine.totalBytes)) ∧
      t.handlerActive = false ∧ t.engine = { s.engine with isBusy := false } ∧ t.dev.en = false ∧
      t.dev.imr = s.dev.imr &&& 0x38#7 ∧ t.dev.rxFifo = s.dev.rxFifo ∧ t.dev.txFifo = [] ∧ t.mem = s.mem ∧
      t.hostPc = s.hostPc ∧ t.hostLoc = s.hostLoc

/-! ### What the commands leave alone -/

/-- R162, R165, R275, R280: the frames of `SET_SS`, `GET_SS`, `SET_STATUS_HANDLER` and `CONFIGURE`, whichever way they end
with a next state. -/
def Obligations.RegisterCommandsFrame : Prop :=
  ∀ s t : State,
    (∀ idx, exec (.setSs idx) s = .next t →
      HostFrame s t ∧ t.engine = { s.engine with slaveSelect := t.engine.slaveSelect } ∧
        t.dev = { s.dev with cr := t.dev.cr } ∧
        (t.dev.cr = s.dev.cr ∨ t.dev.cr = crWithSs (crStored s.dev.cr) t.engine.slaveSelect)) ∧
    (exec .getSs s = .next t → HostFrame s t ∧ t.engine = s.engine ∧ t.dev = s.dev) ∧
    (∀ handler ctx, exec (.setStatusHandler handler ctx) s = .next t →
      HostFrame s t ∧ t.dev = s.dev ∧ t.engine = { s.engine with
        statusCallback := t.engine.statusCallback, callbackContext := t.engine.callbackContext }) ∧
    (∀ opts, exec (.configure opts) s = .next t →
      HostFrame s t ∧ t.engine = s.engine ∧ t.dev = { s.dev with cr := t.dev.cr } ∧
        (t.dev.cr = s.dev.cr ∨ t.dev.cr = crConfigured (crStored s.dev.cr) opts))

/-- R263, R266, R270: the frames of `ABORT`, `RESET` and `INIT`: neither the mask, RXOVR, TXUF nor the TX FIFO changes, `CR`
only by `RESET` and `INIT`, and `ABORT` and `RESET` keep buffers, selection and callback. -/
def Obligations.LifecycleCommandsFrame : Prop :=
  ∀ s t : State,
    (exec .abort s = .next t →
      HostFrame s t ∧ t.dev = { s.dev with
        en := t.dev.en, startArmed := t.dev.startArmed, rxFifo := t.dev.rxFifo, modf := t.dev.modf } ∧
      t.engine = { s.engine with
        isBusy := t.engine.isBusy
        requestedBytes := t.engine.requestedBytes
        remainingBytes := t.engine.remainingBytes }) ∧
    (exec .reset s = .next t →
      HostFrame s t ∧ t.dev = { s.dev with
        en := t.dev.en, startArmed := t.dev.startArmed, rxFifo := t.dev.rxFifo, modf := t.dev.modf, cr := t.dev.cr } ∧
      (t.dev.cr = s.dev.cr ∨ t.dev.cr = Config.crReset) ∧
      t.engine = { s.engine with
        isBusy := t.engine.isBusy
        requestedBytes := t.engine.requestedBytes
        remainingBytes := t.engine.remainingBytes }) ∧
    (∀ base, exec (.init base) s = .next t →
      HostFrame s t ∧ t.dev = { s.dev with
        en := t.dev.en, startArmed := t.dev.startArmed, rxFifo := t.dev.rxFifo, modf := t.dev.modf, cr := t.dev.cr } ∧
      (t.dev.cr = s.dev.cr ∨ t.dev.cr = Config.crReset) ∧ t.engine.totalBytes = s.engine.totalBytes)

/-- R200, R220: the frames of the two transfers' lines before the loop head `P13` and the first fill `T13`, at which `exec` stops
at the latest, because the device is then enabled (notes/assumptions/1.md, DESIGN CHOICE): in those lines no byte of memory, no
FIFO, flag or mask changes, `CR` only by the chip-select apply, and the selection, the callback and the base address stay. It
says nothing of the lines from `P13` and `T13` on, which later steps run: `TRANSFER` then changes FIFO, flags and mask, and
`POLLED_TRANSFER` stores bytes. -/
def Obligations.TransferStartsFrame : Prop :=
  ∀ (s t : State) (txv rxv : Bool) (send recv count : Word),
    (exec (.polledTransfer txv rxv send recv count) s = .next t ∨ exec (.transfer txv rxv send recv count) s = .next t →
      HostFrame s t ∧ t.dev = { s.dev with en := t.dev.en, cr := t.dev.cr } ∧
      (t.dev.cr = s.dev.cr ∨ t.dev.cr = crWithSs (crStored s.dev.cr) s.engine.slaveSelect) ∧
      t.engine = { s.engine with
        isBusy := t.engine.isBusy
        sendBuffer := t.engine.sendBuffer
        recvBuffer := t.engine.recvBuffer
        requestedBytes := t.engine.requestedBytes
        remainingBytes := t.engine.remainingBytes
        totalBytes := t.engine.totalBytes }) ∧
    (exec (.polledTransfer txv rxv send recv count) s = .next t → t.engine.totalBytes = s.engine.totalBytes)

/-- R225, R341, R343: the frame of `IRQ`, of trap entry and however many of the Handler's lines `exec` runs
(notes/assumptions/1.md): the Host is suspended where it stood, and every byte of memory outside the range the activation's
drain stores to, `diff()` bytes from the receive cursor on, is unchanged (every byte, without a receive buffer). -/
def Obligations.IrqFrame : Prop :=
  ∀ s t : State, exec .irq s = .next t →
    t.params = s.params ∧ t.stream = s.stream ∧ t.schedule = s.schedule ∧ t.hostPc = s.hostPc ∧ t.hostOps = s.hostOps ∧
    t.hostLoc = s.hostLoc ∧ s.trace <+: t.trace ∧
    t.engine = { s.engine with
      isBusy := t.engine.isBusy
      sendBuffer := t.engine.sendBuffer
      recvBuffer := t.engine.recvBuffer
      requestedBytes := t.engine.requestedBytes
      remainingBytes := t.engine.remainingBytes } ∧
    ∀ a : Nat,
      (∀ r, s.engine.recvBuffer = some r →
        a < r ∨ r + (s.engine.requestedBytes - s.engine.remainingBytes).toNat ≤ a) →
      Memory.read t.mem a = Memory.read s.mem a

/-! ### Faults and refusals -/

/-- R321: `NotReady` at the first step of every command but `INIT` and `IRQ` while `isReady` is false, with no effect on
engine, register block, memory or trace; the fault records the command's first line. -/
def Obligations.NotReadyFaultsBeforeInit : Prop :=
  ∀ (s : State) (i : Instr), HostFree s → s.engine.isReady = false → hostCommand i = true → i.command ≠ .init →
    ∃ left l, exec i s = .fault (.notReady left) ∧ firstLine i = some l ∧ left.hostPc = .line l ∧
      left.engine = s.engine ∧ left.dev = s.dev ∧ left.mem = s.mem ∧ left.trace = s.trace

/-- R322, R323, R327, R339: the transfers' preconditions in their order, each a fault even while busy: their lines with no step
of another agent between them, from any state of the device. -/
def Obligations.TransferPreconditionsInOrder : Prop :=
  ∀ (s : State) (i : Instr) (txv rxv : Bool) (send recv count : Word), s.engine.isReady = true →
    i = .polledTransfer txv rxv send recv count ∨ i = .transfer txv rxv send recv count →
    (txv = false → ∃ left, commandLines i 4 s = .fault (.nullSendBuffer left)) ∧
    (txv = true → count = 0#32 → ∃ left, commandLines i 4 s = .fault (.zeroCount left)) ∧
    (txv = true → count ≠ 0#32 →
      bufWraps send.toNat count.toNat = true ∨ bufferWraps (bufferOperand rxv recv) count.toNat = true →
      ∃ left, commandLines i 4 s = .fault (.bufferWrap left))

/-- R324, R325, R328: an invalid index, a null handler and a misaligned base fault, whether or not the engine is busy: the
commands' lines with no step of another agent between them, from any state of the device, and `INIT`'s meaning wherever the
Host can take it. -/
def Obligations.BadOperandsFault : Prop :=
  ∀ s : State,
    (∀ idx : BitVec 8, s.engine.isReady = true → validIndex s.params (idx.setWidth 32) = false →
      ∃ left, commandLines (.setSs idx) 2 s = .fault (.badSlaveIndex left)) ∧
    (∀ ctx, s.engine.isReady = true → ∃ left, commandLines (.setStatusHandler 0#32 ctx) 2 s = .fault (.nullHandler left)) ∧
    (∀ base : Word, HostFree s → base.toNat % 4 ≠ 0 → ∃ left, exec (.init base) s = .fault (.badBase left))

/-- R101, R331, R335: a transfer of an initialised engine whose send or receive range meets the register block is refused
before its first line; a Host command from inside a handler activation is refused, and a second one beside a running one
likewise (R31; the name of that refusal is the model's, notes/assumptions/13.md). Where more than one of these refusals
applies, which one is named is the model's choice (notes/assumptions/26.md, DESIGN CHOICE), and that an absent send buffer
meets nothing is DEDUCED (notes/assumptions/27.md). -/
def Obligations.UnsupportedIssuesRefused : Prop :=
  (∀ (s : State) (txv rxv : Bool) (send recv count : Word), s.engine.isReady = true →
    (txv = true ∧ meetsBlock s.engine.baseAddress send.toNat count.toNat = true) ∨
      (rxv = true ∧ meetsBlock s.engine.baseAddress recv.toNat count.toNat = true) →
    exec (.polledTransfer txv rxv send recv count) s = .refused .bufferInRegisterBlock ∧
    exec (.transfer txv rxv send recv count) s = .refused .bufferInRegisterBlock) ∧
  (∀ (s : State) (i : Instr), hostCommand i = true →
    (∀ txv rxv send recv count, i = .polledTransfer txv rxv send recv count ∨ i = .transfer txv rxv send recv count →
      inRegisterBlock s.engine (transferOps txv rxv send recv count) = false) →
    (s.handlerActive = true → exec i s = .refused .callbackReentry) ∧
    (s.handlerActive = false → s.hostPc ≠ .idle → exec i s = .refused .commandInProgress))

/-- R320, R345: a line that raises a fault has no other effect: the state it leaves is the one the line began in. R326: each of
the four callback lines raises `StubCallback` when no callback is registered. R330: `H5`, `H9`, `H21` and `H26` raise
`CounterUnderflow` when `remainingBytes` is above `requestedBytes`, and `D6` when `requestedBytes` is 0. -/
def Obligations.FaultingLineHasNoEffect : Prop :=
  (∀ (a : Agent) (s : State) (f : Fault), lineStep a s = .fault f → faultLeft f = s) ∧
  (∀ (s : State) (l : HandlerLine), s.handlerPc = .line l → l ∈ [HandlerLine.h7, .h17, .h24, .h29] →
    s.engine.statusCallback = .stub → lineStep .handler s = .fault (.stubCallback s)) ∧
  (∀ (s : State) (l : HandlerLine), s.handlerPc = .line l → l ∈ [HandlerLine.h5, .h9, .h21, .h26] →
    s.engine.requestedBytes < s.engine.remainingBytes → lineStep .handler s = .fault (.counterUnderflow s)) ∧
  (∀ (a : Agent) (s : State), AtSub a .d6 s → s.engine.requestedBytes = 0#32 →
    lineStep a s = .fault (.counterUnderflow s))

/-- R96: an access at an offset that is no register's is refused, and no line of the engine performs one. -/
def Obligations.UnmappedOffsetNeverAccessed : Prop :=
  (∀ (off v : Word) (s : State) (k : Word → State → Result) (k' : State → Result),
    off ∉ [0x00#32, 0x04#32, 0x08#32, 0x0C#32, 0x10#32, 0x14#32, 0x1C#32, 0x20#32] →
    regRead off s k = .refused .unmappedOffset ∧ regWrite off v s k' = .refused .unmappedOffset) ∧
  ∀ (a : Agent) (s : State), lineStep a s ≠ .refused .unmappedOffset

/-! ### The register block -/

/-- R56: each bit of the status register's value; R57: the interrupt line is high exactly when some bit is 1 in both that value
and the mask; R90: a read of `SR` returns the value with no side effect; a write clears each sticky flag whose bit is 1 and
does nothing else. -/
def Obligations.StatusRegisterAccess : Prop :=
  ∀ (s : State) (v : Word),
    srRxovr (srValue s.params s.dev) = s.dev.rxovr ∧ srModf (srValue s.params s.dev) = s.dev.modf ∧
    (srTxrdy (srValue s.params s.dev) = true ↔ s.dev.txFifo.length = 0) ∧
    (srTxfull (srValue s.params s.dev) = true ↔ s.dev.txFifo.length = fifoDepth s.params) ∧
    (srRxne (srValue s.params s.dev) = true ↔ 0 < s.dev.rxFifo.length) ∧
    (srRxfull (srValue s.params s.dev) = true ↔ s.dev.rxFifo.length = fifoDepth s.params) ∧
    srTxuf (srValue s.params s.dev) = s.dev.txuf ∧ (∀ j, 7 ≤ j → (srValue s.params s.dev).getLsbD j = false) ∧
    (irqLine s.params s.dev = true ↔
      ∃ j, (srValue s.params s.dev).getLsbD j = true ∧ s.dev.imr.getLsbD j = true) ∧
    readReg .sr s = (srValue s.params s.dev, s) ∧
    writeReg .sr v s.dev = { s.dev with
      rxovr := if v.getLsbD 0 then false else s.dev.rxovr
      modf := if v.getLsbD 1 then false else s.dev.modf
      txuf := if v.getLsbD 6 then false else s.dev.txuf }

/-- R88, R89: a read of `CR` returns the stored value with bits 16 and 31:18 as 0; a write stores every other bit, and arms a
start exactly when bit 16 is 1, the value written has `MANSTRT_EN` and `MSTREN`, and the device is enabled. -/
def Obligations.ControlRegisterAccess : Prop :=
  ∀ (s : State) (v : Word),
    (readReg .cr s).2 = s ∧
    (∀ j, (readReg .cr s).1.getLsbD j = (s.dev.cr.getLsbD j && decide (j < 18) && decide (j ≠ 16))) ∧
    (∀ j, (writeReg .cr v s.dev).cr.getLsbD j = (v.getLsbD j && decide (j < 18) && decide (j ≠ 16))) ∧
    (writeReg .cr v s.dev).startArmed =
      (s.dev.startArmed || (v.getLsbD 16 && v.getLsbD 15 && v.getLsbD 0 && s.dev.en)) ∧
    writeReg .cr v s.dev =
      { s.dev with cr := (writeReg .cr v s.dev).cr, startArmed := (writeReg .cr v s.dev).startArmed }

/-- R91, R92, R93: `IER` sets and `IDR` clears mask bits and a read of either changes nothing (the value read is the model's
free value, notes/assumptions/11.md), `IMR` reads the mask and ignores a write, `ER` enables or disables
and disarms a start. -/
def Obligations.MaskAndEnableAccess : Prop :=
  ∀ (s : State) (v : Word),
    (∀ j, j < 7 → (writeReg .ier v s.dev).imr.getLsbD j = (s.dev.imr.getLsbD j || v.getLsbD j)) ∧
    (∀ j, j < 7 → (writeReg .idr v s.dev).imr.getLsbD j = (s.dev.imr.getLsbD j && !v.getLsbD j)) ∧
    writeReg .ier v s.dev = { s.dev with imr := (writeReg .ier v s.dev).imr } ∧
    writeReg .idr v s.dev = { s.dev with imr := (writeReg .idr v s.dev).imr } ∧
    (readReg .ier s).2 = { s with tick := s.tick + 1 } ∧ (readReg .idr s).2 = { s with tick := s.tick + 1 } ∧
    readReg .imr s = (s.dev.imr.setWidth 32, s) ∧ writeReg .imr v s.dev = s.dev ∧
    readReg .er s = (if s.dev.en then 1#32 else 0#32, s) ∧
    writeReg .er v s.dev = { s.dev with
      en := v.getLsbD 0
      startArmed := if v.getLsbD 0 then s.dev.startArmed else false }

/-- R94, R95: a `TXD` write appends `v[7:0]` when the FIFO holds fewer than `D` bytes and faults when it holds `D`; an `RXD`
read pops the head, zero-extended, and of an empty FIFO it returns some byte, zero-extended, recorded in the trace, and
changes nothing (`tick` counts the model's draws, notes/assumptions/11.md); a `TXD` read and an `RXD` write change nothing. -/
def Obligations.FifoRegisterAccess : Prop :=
  ∀ (s : State) (v : Word) (k : State → Result),
    (s.dev.txFifo.length < fifoDepth s.params →
      regWrite Config.offTxd v s k =
        k (log (.wrReg Config.offTxd v) { s with dev := { s.dev with txFifo := s.dev.txFifo ++ [v.setWidth 8] } })) ∧
    (s.dev.txFifo.length = fifoDepth s.params → regWrite Config.offTxd v s k = .fault (.txFifoOverflow s)) ∧
    (∀ b rest, s.dev.rxFifo = b :: rest →
      readReg .rxd s = (b.setWidth 32, { s with dev := { s.dev with rxFifo := rest } })) ∧
    (s.dev.rxFifo = [] →
      (∃ b : Byte, (readReg .rxd s).1 = b.setWidth 32) ∧ (readReg .rxd s).2 = { s with tick := s.tick + 1 }) ∧
    (∀ k' : Word → State → Result, regRead Config.offRxd s k' =
      k' (readReg .rxd s).1 (log (.rdReg Config.offRxd (readReg .rxd s).1) (readReg .rxd s).2)) ∧
    (readReg .txd s).2 = { s with tick := s.tick + 1 } ∧ writeReg .rxd v s.dev = s.dev

/-! ### The device and the far end -/

/-- R291, R292: one master exchange, and one slave exchange, with and without a byte queued. -/
def Obligations.ExchangeMovesOneByte : Prop :=
  (∀ (s : State) (out response : Byte) (rest : List Byte), s.dev.txFifo = out :: rest →
    masterExchange response s = { s with
      dev := { s.dev with
        txFifo := rest
        rxFifo := if s.dev.rxFifo.length = fifoDepth s.params then s.dev.rxFifo else s.dev.rxFifo ++ [response]
        rxovr := if s.dev.rxFifo.length = fifoDepth s.params then true else s.dev.rxovr
        startArmed := if rest = [] then false else s.dev.startArmed }
      trace := s.trace ++ [.xchg out response (some (crSs s.dev.cr))] }) ∧
  (∀ (s : State) (idle master : Byte),
    slaveExchange idle master s = { s with
      dev := { s.dev with
        txFifo := s.dev.txFifo.tail
        txuf := if s.dev.txFifo = [] then true else s.dev.txuf
        rxFifo := if s.dev.rxFifo.length = fifoDepth s.params then s.dev.rxFifo else s.dev.rxFifo ++ [master]
        rxovr := if s.dev.rxFifo.length = fifoDepth s.params then true else s.dev.rxovr }
      trace := s.trace ++ [.xchg (s.dev.txFifo.head?.getD idle) master none] })

/-- R294, R295: a mode fault sets MODF, records `Ext(MODF)` and changes nothing else. No Device or Far-end step writes `CR`, the
enable, the mask, an engine field, buffer memory or a register of the Host's, and none clears a sticky flag. -/
def Obligations.DeviceStepsFrame : Prop :=
  (∀ s : State, modeFault s = { s with dev := { s.dev with modf := true }, trace := s.trace ++ [.ext .modeFault] }) ∧
  (∀ (s t : State) (b idle master : Byte),
    t = masterExchange b s ∨ t = slaveExchange idle master s ∨ t = modeFault s →
    t = { s with dev := t.dev, trace := t.trace } ∧ t.dev.cr = s.dev.cr ∧ t.dev.en = s.dev.en ∧ t.dev.imr = s.dev.imr ∧
      (s.dev.rxovr = true → t.dev.rxovr = true) ∧ (s.dev.modf = true → t.dev.modf = true) ∧
      (s.dev.txuf = true → t.dev.txuf = true) ∧ s.trace <+: t.trace)

/-! ### The pump -/

/-- R181, R182: run with no step of another agent between its lines, `Fill` queues `min(D, remainingBytes)` bytes of the send
buffer in ascending order, returns how many, and moves the counter and the cursor by as many. -/
def Obligations.FillQueuesOneBatch : Prop :=
  ∀ (a : Agent) (s : State) (addr k : Nat), Calls a .fill s → k = min (fifoDepth s.params) s.engine.remainingBytes.toNat →
    s.engine.sendBuffer = some addr → BufferClear s.engine addr k →
    s.dev.txFifo.length + k ≤ fifoDepth s.params →
    ∃ n t, runLines a n s = .next t ∧ ReturnedFrom a s t ∧ (locals a t).k = BitVec.ofNat 32 k ∧
      t.engine = { s.engine with
        sendBuffer := some (addr + k)
        remainingBytes := s.engine.remainingBytes - BitVec.ofNat 32 k } ∧
      t.dev = { s.dev with txFifo := s.dev.txFifo ++ bytesAt s.mem addr k } ∧ t.mem = s.mem

/-- R95, R183: run with no step of another agent between its lines, `Drain(k)` pops `k` bytes, stores them in ascending order
when a receive buffer is present and discards them otherwise, and retires each; past the bytes the RX FIFO holds, each byte
popped is any byte. -/
def Obligations.DrainRetiresBatch : Prop :=
  ∀ (a : Agent) (s : State), Calls a .drain s →
    (locals a s).k.toNat ≤ s.engine.requestedBytes.toNat →
    (∀ r, s.engine.recvBuffer = some r → BufferClear s.engine r (locals a s).k.toNat) →
    ∃ n t drawn, runLines a n s = .next t ∧ ReturnedFrom a s t ∧
      drawn.length = (locals a s).k.toNat - s.dev.rxFifo.length ∧
      t.engine = { s.engine with
        recvBuffer := s.engine.recvBuffer.map (· + (locals a s).k.toNat)
        requestedBytes := s.engine.requestedBytes - (locals a s).k } ∧
      t.dev = { s.dev with rxFifo := s.dev.rxFifo.drop (locals a s).k.toNat } ∧
      t.mem = drainedMemory s (locals a s).k.toNat drawn

/-- R184: the pairing invariant, in master and in slave mode: when every byte of a batch has been exchanged, with the RX FIFO
empty before and room for the batch, the TX FIFO is empty and the RX FIFO holds exactly the answers, in exchange order, with no
overrun. -/
def Obligations.ExchangesPairBytes : Prop :=
  ∀ (s t : State) (answers : List Byte), answers.length = s.dev.txFifo.length → s.dev.rxFifo = [] →
    s.dev.txFifo.length ≤ fifoDepth s.params → exchanges answers s = some t →
    t.dev.txFifo = [] ∧ t.dev.rxFifo = answers ∧ t.dev.rxovr = s.dev.rxovr ∧ t.engine = s.engine ∧ t.mem = s.mem

/-- R184, R200, R202, R207: one whole pass of the polled loop, in master or in slave mode, from the loop head with both FIFOs
empty: the lines queue a batch of `min(D, remainingBytes)` bytes and come to the busy-wait; the bus then can exchange all of
it, whatever the other side sends; and the lines then store the answers in the receive buffer, or discard them without one, and
come back to the loop head with both counters lower by the batch. -/
def Obligations.PolledPassMovesOneBatch : Prop :=
  ∀ (s : State) (send : Nat) (answers : List Byte), s.hostPc = .line (.polled .p13) →
    s.engine.sendBuffer = some send → s.engine.requestedBytes ≠ 0#32 →
    s.engine.remainingBytes = s.engine.requestedBytes → s.dev.en = true →
    crStored s.dev.cr = s.dev.cr → s.dev.txFifo = [] → s.dev.rxFifo = [] →
    answers.length = min (fifoDepth s.params) s.engine.requestedBytes.toNat →
    BufferClear s.engine send answers.length →
    (∀ r, s.engine.recvBuffer = some r → BufferClear s.engine r answers.length) →
    ∃ m n s1 s2 t, runLines .host m s = .next s1 ∧ s1.hostPc = .line (.polled .p16) ∧
      s1.dev.txFifo = bytesAt s.mem send answers.length ∧ exchanges answers s1 = some s2 ∧
      runLines .host n s2 = .next t ∧ t.hostPc = .line (.polled .p13) ∧
      (t.mem = match s.engine.recvBuffer with
        | none => s.mem
        | some r => storeBytes s.mem r answers) ∧
      t.engine = { s.engine with
        sendBuffer := some (send + answers.length)
        recvBuffer := s.engine.recvBuffer.map (· + answers.length)
        requestedBytes := s.engine.requestedBytes - BitVec.ofNat 32 answers.length
        remainingBytes := s.engine.remainingBytes - BitVec.ofNat 32 answers.length } ∧
      t.dev.txFifo = [] ∧ t.dev.rxFifo = [] ∧ t.dev.cr = s.dev.cr ∧ t.dev.en = true

/-- R192, R200, R202, R203, R207, R209: a polled transfer of any length, in master or in slave mode, can complete: whatever the
other side sends for each byte, there is an order of the agents' steps in which the machine, taking the command from its
stream, comes to its return with `SUCCESS`, the bytes received stored in the receive buffer (none, without one), both counters
0, not busy and disabled, every select line deasserted in manual chip-select mode and `CR` otherwise as before, the mask as
before. -/
def Obligations.PolledTransferCompletes : Prop :=
  ∀ (s : State) (rxv : Bool) (send recv count : Word) (rest : List Word) (answers : List Byte), HostFree s →
    Undisturbed s → s.engine.isReady = true → s.engine.isBusy = false →
    crStored s.dev.cr = s.dev.cr → s.dev.txFifo = [] → s.dev.rxFifo = [] → count ≠ 0#32 →
    (rxv = false → recv = 0#32) → BufferClear s.engine send.toNat count.toNat →
    (rxv = true → BufferClear s.engine recv.toNat count.toNat) → answers.length = count.toNat →
    ∃ moves n t,
      steps n { s with
        schedule := moves
        stream := encode (.polledTransfer true rxv send recv count) ++ rest } = .next t ∧
      t.hostPc = .idle ∧ t.stream = rest ∧ t.trace.getLast? = some (.ret .polledTransfer (some Config.success)) ∧
      t.mem = (if rxv then storeBytes s.mem recv.toNat answers else s.mem) ∧ t.engine.isBusy = false ∧
      t.engine.requestedBytes = 0#32 ∧ t.engine.remainingBytes = 0#32 ∧ t.dev.en = false ∧
      t.dev.cr = (if crManualCs s.dev.cr then crDeasserted s.dev.cr else s.dev.cr) ∧ t.dev.imr = s.dev.imr

/-! ### The handler -/

/-- R226, R227: an activation that latches a mode fault, run with no step of another agent between its lines: it aborts and
issues one callback, a `MODE_FAULT` with the difference taken before the abort, as its last event, and returns; chip-select
and every mask bit but TXRDY stay. -/
def Obligations.ModeFaultActivationAborts : Prop :=
  ∀ (s : State) (id : Word), s.handlerActive = true → s.handlerPc = .line .h1 → s.dev.modf = true →
    s.engine.statusCallback = .registered id → s.engine.remainingBytes ≤ s.engine.requestedBytes →
    ∃ n t events, runLines .handler n s = .next t ∧ t.handlerActive = false ∧
      t.engine = { s.engine with isBusy := false, requestedBytes := 0#32, remainingBytes := 0#32 } ∧
      t.dev.rxFifo = [] ∧ t.dev.modf = false ∧ t.dev.en = false ∧ t.dev.cr = s.dev.cr ∧
      t.dev.imr = s.dev.imr &&& ~~~(4#7) ∧ t.mem = s.mem ∧
      t.trace = s.trace ++ events ++ [.cb s.engine.callbackContext id .modeFault
        (s.engine.requestedBytes - s.engine.remainingBytes)] ∧
      events.all notCallback = true

/-- R228, R229: an activation that latches TXRDY alone with the last batch pending, run with no step of another agent between
its lines: it drains the batch, masks `IRQ_XFER`, deasserts chip-select if manual, clears busy, disables the device and
issues one `TRANSFER_DONE` with the count R235 gives. The RX FIFO may hold more bytes than the batch (R376), which stay, or
fewer, where each byte drained past them is any byte (R95). -/
def Obligations.LastBatchActivationCompletes : Prop :=
  ∀ (s : State) (id : Word) (k : Nat), s.handlerActive = true → s.handlerPc = .line .h1 → s.dev.modf = false →
    s.dev.rxovr = false → s.dev.txuf = false → s.dev.txFifo = [] → s.engine.statusCallback = .registered id →
    s.engine.remainingBytes = 0#32 → k = batchInFlight s → crStored s.dev.cr = s.dev.cr →
    (∀ r, s.engine.recvBuffer = some r → BufferClear s.engine r k) →
    ∃ n t events drawn, runLines .handler n s = .next t ∧ drawn.length = k - s.dev.rxFifo.length ∧
      t.handlerActive = false ∧ t.engine.isBusy = false ∧
      t.engine.requestedBytes = 0#32 ∧ t.engine.remainingBytes = 0#32 ∧ t.dev.rxFifo = s.dev.rxFifo.drop k ∧
      t.dev.txFifo = [] ∧ t.dev.en = false ∧ t.dev.imr = s.dev.imr &&& ~~~(0x47#7) ∧
      t.dev.cr = (if crManualCs s.dev.cr then crDeasserted s.dev.cr else s.dev.cr) ∧
      t.mem = drainedMemory s k drawn ∧
      t.trace = s.trace ++ events ++ [.cb s.engine.callbackContext id .transferDone
        (match s.params.completeCount with
          | .zero => 0#32
          | .total => s.engine.totalBytes)] ∧
      events.all notCallback = true

/-- R185, R228, R230: an activation that latches TXRDY alone with bytes left to queue, run with no step of another agent between
its lines: it drains the batch into the receive buffer if one is present, queues the next batch of `min(D, remainingBytes)`
bytes as memory then holds them, unmasks TXRDY again, arms a start when manual start is configured in master mode on an enabled
device, issues no callback and leaves busy, the enable and `CR` as they are. The RX FIFO may hold more bytes than the batch
(R376), which stay, or fewer, where each byte drained past them is any byte (R95). -/
def Obligations.MiddleBatchActivationRefills : Prop :=
  ∀ (s : State) (send k j : Nat), s.handlerActive = true → s.handlerPc = .line .h1 →
    s.dev.modf = false → s.dev.rxovr = false → s.dev.txuf = false → s.dev.txFifo = [] → crStored s.dev.cr = s.dev.cr →
    s.engine.remainingBytes ≤ s.engine.requestedBytes → k = batchInFlight s →
    s.engine.remainingBytes ≠ 0#32 → j = min (fifoDepth s.params) s.engine.remainingBytes.toNat →
    s.engine.sendBuffer = some send → BufferClear s.engine send j →
    (∀ r, s.engine.recvBuffer = some r → BufferClear s.engine r k) →
    ∃ n t events drawn, runLines .handler n s = .next t ∧ drawn.length = k - s.dev.rxFifo.length ∧
      t.handlerActive = false ∧
      t.engine = { s.engine with
        sendBuffer := some (send + j)
        recvBuffer := s.engine.recvBuffer.map (· + k)
        requestedBytes := s.engine.requestedBytes - BitVec.ofNat 32 k
        remainingBytes := s.engine.remainingBytes - BitVec.ofNat 32 j } ∧
      t.mem = drainedMemory s k drawn ∧ t.dev.txFifo = bytesAt t.mem send j ∧ t.dev.rxFifo = s.dev.rxFifo.drop k ∧
      t.dev.imr = s.dev.imr ||| 4#7 ∧ t.dev.cr = s.dev.cr ∧ t.dev.en = s.dev.en ∧
      t.dev.startArmed = (s.dev.startArmed || (crManstrtEn s.dev.cr && crMstren s.dev.cr && s.dev.en)) ∧
      t.trace = s.trace ++ events ∧ events.all notCallback = true

/-- R231, R232, R233, R336: an activation that latches a receive overrun, a transmit underrun or both, with no mode fault, run
with no step of another agent between its lines: busy cleared, chip-select deasserted if manual, and one callback for each
latched check, in the order `TRANSFER_DONE`, `RECEIVE_OVERRUN`, `TRANSMIT_UNDERRUN`, with the difference at that point. Where
TXRDY is not latched, the device, the counters and the FIFOs stay as they are. Where it is latched with the last batch
pending, the completion comes first and the difference is 0. Where it is latched with bytes left to queue, the next batch is
queued first, a start is armed as R230 says, and the difference is the batch's length. In both, the RX FIFO may hold more
bytes than the batch drained, as after an underrun, whose exchange pushes a byte too (R292, R376), and they stay; or fewer,
where each byte drained past them is any byte (R95). -/
def Obligations.ErrorActivationsCleanUp : Prop :=
  ∀ (s : State) (id : Word), s.handlerActive = true → s.handlerPc = .line .h1 → s.dev.modf = false →
    s.dev.rxovr = true ∨ s.dev.txuf = true → s.engine.statusCallback = .registered id → crStored s.dev.cr = s.dev.cr →
    (s.dev.txFifo ≠ [] → s.engine.remainingBytes ≤ s.engine.requestedBytes →
      ∃ n t events, runLines .handler n s = .next t ∧ t.handlerActive = false ∧
        t.engine = { s.engine with isBusy := false } ∧
        t.dev = { s.dev with
          rxovr := false
          txuf := false
          imr := s.dev.imr &&& ~~~(4#7)
          cr := if crManualCs s.dev.cr then crDeasserted s.dev.cr else s.dev.cr } ∧
        t.mem = s.mem ∧ t.trace = s.trace ++ events ∧
        events.filter isCallback =
          errorCallbacks s id (s.engine.requestedBytes - s.engine.remainingBytes) ∧
        events.getLast? = (errorCallbacks s id (s.engine.requestedBytes - s.engine.remainingBytes)).getLast?) ∧
    (∀ k : Nat, s.dev.txFifo = [] → s.engine.remainingBytes = 0#32 → k = batchInFlight s →
      (∀ r, s.engine.recvBuffer = some r → BufferClear s.engine r k) →
      ∃ n t events drawn, runLines .handler n s = .next t ∧ drawn.length = k - s.dev.rxFifo.length ∧
        t.handlerActive = false ∧
        t.engine = { s.engine with
          isBusy := false
          recvBuffer := s.engine.recvBuffer.map (· + k)
          requestedBytes := 0#32 } ∧
        t.dev = { s.dev with
          rxovr := false
          txuf := false
          rxFifo := s.dev.rxFifo.drop k
          en := false
          startArmed := false
          imr := s.dev.imr &&& ~~~(0x47#7)
          cr := if crManualCs s.dev.cr then crDeasserted s.dev.cr else s.dev.cr } ∧
        t.mem = drainedMemory s k drawn ∧ t.trace = s.trace ++ events ∧
        events.filter isCallback = .cb s.engine.callbackContext id .transferDone
          (match s.params.completeCount with
            | .zero => 0#32
            | .total => s.engine.totalBytes) :: errorCallbacks s id 0#32) ∧
    (∀ send k j : Nat, s.dev.txFifo = [] → s.engine.remainingBytes ≤ s.engine.requestedBytes → k = batchInFlight s →
      s.engine.remainingBytes ≠ 0#32 → j = min (fifoDepth s.params) s.engine.remainingBytes.toNat →
      s.engine.sendBuffer = some send → BufferClear s.engine send j →
      (∀ r, s.engine.recvBuffer = some r → BufferClear s.engine r k) →
      ∃ n t events drawn, runLines .handler n s = .next t ∧ drawn.length = k - s.dev.rxFifo.length ∧
        t.handlerActive = false ∧
        t.engine = { s.engine with
          isBusy := false
          sendBuffer := some (send + j)
          recvBuffer := s.engine.recvBuffer.map (· + k)
          requestedBytes := s.engine.requestedBytes - BitVec.ofNat 32 k
          remainingBytes := s.engine.remainingBytes - BitVec.ofNat 32 j } ∧
        t.mem = drainedMemory s k drawn ∧ t.dev.txFifo = bytesAt t.mem send j ∧ t.dev.rxFifo = s.dev.rxFifo.drop k ∧
        t.dev.imr = s.dev.imr ||| 4#7 ∧
        t.dev.cr = (if crManualCs s.dev.cr then crDeasserted s.dev.cr else s.dev.cr) ∧ t.dev.en = s.dev.en ∧
        t.dev.startArmed = (s.dev.startArmed || (crManstrtEn s.dev.cr && crMstren s.dev.cr && s.dev.en)) ∧
        t.dev.rxovr = false ∧ t.dev.txuf = false ∧ t.trace = s.trace ++ events ∧
        events.filter isCallback = errorCallbacks s id (BitVec.ofNat 32 j))

/-! ### The whole machine -/

/-- R62, R64, R363: the reset state is the launch record: not ready, not busy, the power-on register block, nothing running, an
empty trace; its status register reads 0x04 and its interrupt line is low. The invariants of the machine hold at it. These are
the model's choice: that nothing is listed in memory (notes/assumptions/7.md), and the engine values that R62 leaves
unspecified, on which SelectOk, CallbackOk and BaseOk rest, and SendOk's absent buffer (notes/assumptions/5.md, DESIGN CHOICE);
that there is no operand, that the locals are fresh and that the inactive Handler stands at `H1`, which LocalsOk says
(notes/assumptions/19.md, DESIGN CHOICE); the register block's values but `CR`'s are R64's own general knowledge
(notes/assumptions/6.md, PRESUMED). -/
def Obligations.ResetIsTheLaunchState : Prop :=
  Launch State.reset ∧ srValue State.reset.params State.reset.dev = 0x04#32 ∧
    irqLine State.reset.params State.reset.dev = false ∧ State.reset.dev.cr = 0x00020000#32 ∧
    State.reset.dev.imr = 0#7 ∧ State.reset.dev.en = false ∧
    MemoryOk State.reset ∧ BlockOk State.reset ∧ SelectOk State.reset ∧ CallbackOk State.reset ∧ BaseOk State.reset ∧
    SendOk State.reset ∧ PositionsOk State.reset ∧ LocalsOk State.reset

/-- R81 (and the model's canonical form, notes/assumptions/7.md): every step keeps buffer memory in canonical form. -/
def Obligations.StepKeepsMemoryCanonical : Prop :=
  ∀ s t : State, MemoryOk s → step s = .next t → MemoryOk t

/-- R54, R89, R93, R293: every step keeps the register block legal: no bit of `CR` that is not stored, at most `D` bytes in
each FIFO, a start armed only while the device is enabled. -/
def Obligations.StepKeepsBlockLegal : Prop :=
  ∀ s t : State, BlockOk s → step s = .next t → BlockOk t

/-- R34, R44, R97, R168: from a state whose sequencers stand at legal positions, every step keeps the cached selection legal,
the registered handler nonzero, the base aligned, and a send buffer present while a transfer is active (from the line after
the claim on, where the transfer's buffers are installed). -/
def Obligations.StepKeepsEngineLegal : Prop :=
  ∀ s t : State, PositionsOk s → step s = .next t →
    (SelectOk s → SelectOk t) ∧ (CallbackOk s → CallbackOk t) ∧ (BaseOk s → BaseOk t) ∧ (SendOk s → SendOk t)

/-- R46, R47, R48, R180: every step keeps both sequencers at positions the line lists have, and no local past its activation.
That a command's operands are cleared too, and that an inactive Handler stands at `H1`, is the model's choice
(notes/assumptions/19.md, DESIGN CHOICE). -/
def Obligations.StepKeepsPositionsLegal : Prop :=
  ∀ s t : State, PositionsOk s → LocalsOk s → step s = .next t → PositionsOk t ∧ LocalsOk t

/-- R10, R61: no step changes a parameter, and every step only adds events at the end of the trace. -/
def Obligations.StepExtendsTrace : Prop :=
  ∀ s t : State, step s = .next t → t.params = s.params ∧ s.trace <+: t.trace

/-- R32: while the Handler is active the Host takes no step: its position, operands, locals and stream stay. -/
def Obligations.HostStandsWhileHandlerActive : Prop :=
  ∀ s t : State, s.handlerActive = true → step s = .next t →
    t.hostPc = s.hostPc ∧ t.hostOps = s.hostOps ∧ t.hostLoc = s.hostLoc ∧ t.stream = s.stream

/-- R81: buffer memory is plain memory: a read returns the byte last written at its address and any other address reads as
before, for one byte and for bytes stored in ascending order (R85). Of all lines only `D4`, in a drain, writes it, and it writes
the drained byte at the receive cursor. -/
def Obligations.OnlyDrainWritesMemory : Prop :=
  (∀ (m : List Host.Cell) (a : Nat) (v : Byte), Memory.wf m →
    Memory.read (Memory.write m a v) a = v ∧
    ∀ b, b ≠ a → Memory.read (Memory.write m a v) b = Memory.read m b) ∧
  (∀ (m : List Host.Cell) (a : Nat) (bytes : List Byte), Memory.wf m → a + bytes.length ≤ Config.addressLimit →
    bytesAt (storeBytes m a bytes) a bytes.length = bytes ∧
    ∀ b, b < a ∨ a + bytes.length ≤ b → Memory.read (storeBytes m a bytes) b = Memory.read m b) ∧
  ∀ (a : Agent) (s t : State), lineStep a s = .next t →
    t.mem = s.mem ∨
      (AtStore a s ∧ ∃ r, s.engine.recvBuffer = some r ∧ t.mem = Memory.write s.mem r (locals a s).b)

/-- R35, R36: once ready, the engine stays ready, and only `INIT`, at its line `I3` or taken in this step, changes the base
address. -/
def Obligations.OnlyInitBindsBase : Prop :=
  ∀ s t : State, step s = .next t →
    (s.engine.isReady = true → t.engine.isReady = true) ∧
    (t.engine.baseAddress ≠ s.engine.baseAddress →
      (s.hostPc = .line (.init .i3) ∧ t.engine.baseAddress = s.hostOps.base) ∨
        (s.hostPc = .idle ∧ ∃ base rest, decode s.stream = .ok (.init base) rest ∧ t.engine.baseAddress = base))
end

