-- ==== Sys2Proof/Laws/Encoding.lean ====
section
/-! SUPPORT. The fields of a command word and its bytes, said once (spec/30_encoding.md R121, R122). -/

namespace Sys2Proof

/-- The fields of a packed command word are the fields packed (R122). -/
theorem packWord_fields (opc arg8 : Byte) (txv rxv : Bool) :
    cwOpc (packWord opc arg8 txv rxv) = opc ∧ cwArg8 (packWord opc arg8 txv rxv) = arg8 ∧
    cwTxv (packWord opc arg8 txv rxv) = txv ∧ cwRxv (packWord opc arg8 txv rxv) = rxv ∧
    cwRsv (packWord opc arg8 txv rxv) = 0#14 := by
  refine ⟨?_, ?_, ?_, ?_, ?_⟩
  · apply BitVec.eq_of_getLsbD_eq; intro j hj; interval_cases j <;> simp [cwOpc, packWord]
  · apply BitVec.eq_of_getLsbD_eq; intro j hj; interval_cases j <;> simp [cwArg8, packWord]
  · simp [cwTxv, packWord]
  · simp [cwRxv, packWord]
  · apply BitVec.eq_of_getLsbD_eq; intro j hj; interval_cases j <;> simp [cwRsv, packWord]

/-- A command word whose reserved bits are 0 is its fields packed (R122). -/
theorem eq_packWord (cw : Word) (h : cwRsv cw = 0#14) : cw = packWord (cwOpc cw) (cwArg8 cw) (cwTxv cw) (cwRxv cw) := by
  have hj : ∀ j, 18 ≤ j → j < 32 → cw.getLsbD j = false := by
    intro j h1 h2
    have := congrArg (BitVec.getLsbD · (j - 18)) h
    simp only [cwRsv, BitVec.getLsbD_extractLsb'] at this
    simpa [show j - 18 < 14 by omega, show 18 + (j - 18) = j by omega] using this
  apply BitVec.eq_of_getLsbD_eq; intro j hj'
  interval_cases j <;> simp [packWord, cwOpc, cwArg8, cwTxv, cwRxv] <;>
    (try exact hj _ (by decide) (by decide))

/-- What an accepted command word satisfies, in the order of the decoder's checks (R127). -/
theorem decode_word {cw : Word} {args : List Word} {i : Instr} {rest : List Word} (h : decode (cw :: args) = .ok i rest) :
   cwRsv cw = 0#14 ∧ commandOfOpc (cwOpc cw) = some i.command ∧ arg8Ok i.command (cwArg8 cw) = true ∧ validBitsOk i.command (cwTxv cw) (cwRxv cw) = true ∧ decodeOperands i.command (cwArg8 cw) (cwTxv cw) (cwRxv cw) args = .ok i rest := by
  simp only [decode] at h
  split at h
  · cases h
  split at h
  · cases h
  rename_i c hc
  split at h
  · cases h
  split at h
  · cases h
  have : c = i.command := by
    cases c <;> simp only [decodeOperands, accept] at h <;> split at h <;> (try split at h) <;> cases h <;> rfl
  subst this
  refine ⟨by simpa using ‹¬ cwRsv cw ≠ _›, hc, by simp_all, by simp_all, h⟩

/-- The bytes of a word are read back as that word (R121). -/
theorem wordsOfBytes_word (w : Word) (rest : List Byte) : wordsOfBytes (bytesOfWord w ++ rest) = w :: wordsOfBytes rest := by
  have : wordOfBytes (w.extractLsb' 0 8) (w.extractLsb' 8 8) (w.extractLsb' 16 8) (w.extractLsb' 24 8) = w := by
    apply BitVec.eq_of_getLsbD_eq
    intro j hj
    interval_cases j <;> simp [wordOfBytes]
  simp [bytesOfWord, wordsOfBytes, this]

/-- The bytes of a list of words are read back as those words (R121). -/
theorem wordsOfBytes_words (ws : List Word) (rest : List Byte) :
    wordsOfBytes (ws.flatMap bytesOfWord ++ rest) = ws ++ wordsOfBytes rest := by
  induction ws with
  | nil => rfl
  | cons w ws ih => simp [List.flatMap_cons, wordsOfBytes_word, ih]

end Sys2Proof
end

