-- ==== Sys2Proof/Laws/State.lean ====
section
/-! SUPPORT. What every named update of the state does to every field: one simp lemma per field. -/

namespace Sys2Proof.Machine

/-! ### `log` -/

@[simp] theorem log_params (e : Event) (s : State) : (log e s).params = s.params := rfl
@[simp] theorem log_engine (e : Event) (s : State) : (log e s).engine = s.engine := rfl
@[simp] theorem log_dev (e : Event) (s : State) : (log e s).dev = s.dev := rfl
@[simp] theorem log_mem (e : Event) (s : State) : (log e s).mem = s.mem := rfl
@[simp] theorem log_stream (e : Event) (s : State) : (log e s).stream = s.stream := rfl
@[simp] theorem log_hostPc (e : Event) (s : State) : (log e s).hostPc = s.hostPc := rfl
@[simp] theorem log_hostOps (e : Event) (s : State) : (log e s).hostOps = s.hostOps := rfl
@[simp] theorem log_hostLoc (e : Event) (s : State) : (log e s).hostLoc = s.hostLoc := rfl
@[simp] theorem log_handlerActive (e : Event) (s : State) : (log e s).handlerActive = s.handlerActive := rfl
@[simp] theorem log_handlerPc (e : Event) (s : State) : (log e s).handlerPc = s.handlerPc := rfl
@[simp] theorem log_handlerLoc (e : Event) (s : State) : (log e s).handlerLoc = s.handlerLoc := rfl
@[simp] theorem log_trace (e : Event) (s : State) : (log e s).trace = s.trace ++ [e] := rfl
@[simp] theorem log_schedule (e : Event) (s : State) : (log e s).schedule = s.schedule := rfl
@[simp] theorem log_tick (e : Event) (s : State) : (log e s).tick = s.tick := rfl

/-! ### `goHost` -/

@[simp] theorem goHost_params (l : HostLine) (s : State) : (goHost l s).params = s.params := rfl
@[simp] theorem goHost_engine (l : HostLine) (s : State) : (goHost l s).engine = s.engine := rfl
@[simp] theorem goHost_dev (l : HostLine) (s : State) : (goHost l s).dev = s.dev := rfl
@[simp] theorem goHost_mem (l : HostLine) (s : State) : (goHost l s).mem = s.mem := rfl
@[simp] theorem goHost_stream (l : HostLine) (s : State) : (goHost l s).stream = s.stream := rfl
@[simp] theorem goHost_hostPc (l : HostLine) (s : State) : (goHost l s).hostPc = .line l := rfl
@[simp] theorem goHost_hostOps (l : HostLine) (s : State) : (goHost l s).hostOps = s.hostOps := rfl
@[simp] theorem goHost_hostLoc (l : HostLine) (s : State) : (goHost l s).hostLoc = s.hostLoc := rfl
@[simp] theorem goHost_handlerActive (l : HostLine) (s : State) : (goHost l s).handlerActive = s.handlerActive := rfl
@[simp] theorem goHost_handlerPc (l : HostLine) (s : State) : (goHost l s).handlerPc = s.handlerPc := rfl
@[simp] theorem goHost_handlerLoc (l : HostLine) (s : State) : (goHost l s).handlerLoc = s.handlerLoc := rfl
@[simp] theorem goHost_trace (l : HostLine) (s : State) : (goHost l s).trace = s.trace := rfl
@[simp] theorem goHost_schedule (l : HostLine) (s : State) : (goHost l s).schedule = s.schedule := rfl
@[simp] theorem goHost_tick (l : HostLine) (s : State) : (goHost l s).tick = s.tick := rfl

/-! ### `goHandler` -/

@[simp] theorem goHandler_params (l : HandlerLine) (s : State) : (goHandler l s).params = s.params := rfl
@[simp] theorem goHandler_engine (l : HandlerLine) (s : State) : (goHandler l s).engine = s.engine := rfl
@[simp] theorem goHandler_dev (l : HandlerLine) (s : State) : (goHandler l s).dev = s.dev := rfl
@[simp] theorem goHandler_mem (l : HandlerLine) (s : State) : (goHandler l s).mem = s.mem := rfl
@[simp] theorem goHandler_stream (l : HandlerLine) (s : State) : (goHandler l s).stream = s.stream := rfl
@[simp] theorem goHandler_hostPc (l : HandlerLine) (s : State) : (goHandler l s).hostPc = s.hostPc := rfl
@[simp] theorem goHandler_hostOps (l : HandlerLine) (s : State) : (goHandler l s).hostOps = s.hostOps := rfl
@[simp] theorem goHandler_hostLoc (l : HandlerLine) (s : State) : (goHandler l s).hostLoc = s.hostLoc := rfl
@[simp] theorem goHandler_handlerActive (l : HandlerLine) (s : State) : (goHandler l s).handlerActive = s.handlerActive := rfl
@[simp] theorem goHandler_handlerPc (l : HandlerLine) (s : State) : (goHandler l s).handlerPc = .line l := rfl
@[simp] theorem goHandler_handlerLoc (l : HandlerLine) (s : State) : (goHandler l s).handlerLoc = s.handlerLoc := rfl
@[simp] theorem goHandler_trace (l : HandlerLine) (s : State) : (goHandler l s).trace = s.trace := rfl
@[simp] theorem goHandler_schedule (l : HandlerLine) (s : State) : (goHandler l s).schedule = s.schedule := rfl
@[simp] theorem goHandler_tick (l : HandlerLine) (s : State) : (goHandler l s).tick = s.tick := rfl

/-! ### `started` -/

@[simp] theorem started_params (o : HostOps) (l : HostLine) (s : State) : (started o l s).params = s.params := rfl
@[simp] theorem started_engine (o : HostOps) (l : HostLine) (s : State) : (started o l s).engine = s.engine := rfl
@[simp] theorem started_dev (o : HostOps) (l : HostLine) (s : State) : (started o l s).dev = s.dev := rfl
@[simp] theorem started_mem (o : HostOps) (l : HostLine) (s : State) : (started o l s).mem = s.mem := rfl
@[simp] theorem started_stream (o : HostOps) (l : HostLine) (s : State) : (started o l s).stream = s.stream := rfl
@[simp] theorem started_hostPc (o : HostOps) (l : HostLine) (s : State) : (started o l s).hostPc = .line l := rfl
@[simp] theorem started_hostOps (o : HostOps) (l : HostLine) (s : State) : (started o l s).hostOps = o := rfl
@[simp] theorem started_hostLoc (o : HostOps) (l : HostLine) (s : State) : (started o l s).hostLoc = Locals.fresh := rfl
@[simp] theorem started_handlerActive (o : HostOps) (l : HostLine) (s : State) : (started o l s).handlerActive = s.handlerActive := rfl
@[simp] theorem started_handlerPc (o : HostOps) (l : HostLine) (s : State) : (started o l s).handlerPc = s.handlerPc := rfl
@[simp] theorem started_handlerLoc (o : HostOps) (l : HostLine) (s : State) : (started o l s).handlerLoc = s.handlerLoc := rfl
@[simp] theorem started_trace (o : HostOps) (l : HostLine) (s : State) : (started o l s).trace = s.trace := rfl
@[simp] theorem started_schedule (o : HostOps) (l : HostLine) (s : State) : (started o l s).schedule = s.schedule := rfl
@[simp] theorem started_tick (o : HostOps) (l : HostLine) (s : State) : (started o l s).tick = s.tick := rfl

/-! ### `hostReturn` -/

@[simp] theorem hostReturn_params (c : Command) (v : Option Word) (s : State) : (hostReturn c v s).params = s.params := rfl
@[simp] theorem hostReturn_engine (c : Command) (v : Option Word) (s : State) : (hostReturn c v s).engine = s.engine := rfl
@[simp] theorem hostReturn_dev (c : Command) (v : Option Word) (s : State) : (hostReturn c v s).dev = s.dev := rfl
@[simp] theorem hostReturn_mem (c : Command) (v : Option Word) (s : State) : (hostReturn c v s).mem = s.mem := rfl
@[simp] theorem hostReturn_stream (c : Command) (v : Option Word) (s : State) : (hostReturn c v s).stream = s.stream := rfl
@[simp] theorem hostReturn_hostPc (c : Command) (v : Option Word) (s : State) : (hostReturn c v s).hostPc = .idle := rfl
@[simp] theorem hostReturn_hostOps (c : Command) (v : Option Word) (s : State) : (hostReturn c v s).hostOps = HostOps.none := rfl
@[simp] theorem hostReturn_hostLoc (c : Command) (v : Option Word) (s : State) : (hostReturn c v s).hostLoc = Locals.fresh := rfl
@[simp] theorem hostReturn_handlerActive (c : Command) (v : Option Word) (s : State) : (hostReturn c v s).handlerActive = s.handlerActive := rfl
@[simp] theorem hostReturn_handlerPc (c : Command) (v : Option Word) (s : State) : (hostReturn c v s).handlerPc = s.handlerPc := rfl
@[simp] theorem hostReturn_handlerLoc (c : Command) (v : Option Word) (s : State) : (hostReturn c v s).handlerLoc = s.handlerLoc := rfl
@[simp] theorem hostReturn_trace (c : Command) (v : Option Word) (s : State) : (hostReturn c v s).trace = s.trace ++ [.ret c v] := rfl
@[simp] theorem hostReturn_schedule (c : Command) (v : Option Word) (s : State) : (hostReturn c v s).schedule = s.schedule := rfl
@[simp] theorem hostReturn_tick (c : Command) (v : Option Word) (s : State) : (hostReturn c v s).tick = s.tick := rfl

/-! ### `trapEntry` -/

@[simp] theorem trapEntry_params (s : State) : (trapEntry s).params = s.params := rfl
@[simp] theorem trapEntry_engine (s : State) : (trapEntry s).engine = s.engine := rfl
@[simp] theorem trapEntry_dev (s : State) : (trapEntry s).dev = s.dev := rfl
@[simp] theorem trapEntry_mem (s : State) : (trapEntry s).mem = s.mem := rfl
@[simp] theorem trapEntry_stream (s : State) : (trapEntry s).stream = s.stream := rfl
@[simp] theorem trapEntry_hostPc (s : State) : (trapEntry s).hostPc = s.hostPc := rfl
@[simp] theorem trapEntry_hostOps (s : State) : (trapEntry s).hostOps = s.hostOps := rfl
@[simp] theorem trapEntry_hostLoc (s : State) : (trapEntry s).hostLoc = s.hostLoc := rfl
@[simp] theorem trapEntry_handlerActive (s : State) : (trapEntry s).handlerActive = true := rfl
@[simp] theorem trapEntry_handlerPc (s : State) : (trapEntry s).handlerPc = .line .h1 := rfl
@[simp] theorem trapEntry_handlerLoc (s : State) : (trapEntry s).handlerLoc = Locals.fresh := rfl
@[simp] theorem trapEntry_trace (s : State) : (trapEntry s).trace = s.trace ++ [.ext .irq] := rfl
@[simp] theorem trapEntry_schedule (s : State) : (trapEntry s).schedule = s.schedule := rfl
@[simp] theorem trapEntry_tick (s : State) : (trapEntry s).tick = s.tick := rfl

/-! ### `trapReturn` -/

@[simp] theorem trapReturn_params (s : State) : (trapReturn s).params = s.params := rfl
@[simp] theorem trapReturn_engine (s : State) : (trapReturn s).engine = s.engine := rfl
@[simp] theorem trapReturn_dev (s : State) : (trapReturn s).dev = s.dev := rfl
@[simp] theorem trapReturn_mem (s : State) : (trapReturn s).mem = s.mem := rfl
@[simp] theorem trapReturn_stream (s : State) : (trapReturn s).stream = s.stream := rfl
@[simp] theorem trapReturn_hostPc (s : State) : (trapReturn s).hostPc = s.hostPc := rfl
@[simp] theorem trapReturn_hostOps (s : State) : (trapReturn s).hostOps = s.hostOps := rfl
@[simp] theorem trapReturn_hostLoc (s : State) : (trapReturn s).hostLoc = s.hostLoc := rfl
@[simp] theorem trapReturn_handlerActive (s : State) : (trapReturn s).handlerActive = false := rfl
@[simp] theorem trapReturn_handlerPc (s : State) : (trapReturn s).handlerPc = .line .h1 := rfl
@[simp] theorem trapReturn_handlerLoc (s : State) : (trapReturn s).handlerLoc = Locals.fresh := rfl
@[simp] theorem trapReturn_trace (s : State) : (trapReturn s).trace = s.trace := rfl
@[simp] theorem trapReturn_schedule (s : State) : (trapReturn s).schedule = s.schedule := rfl
@[simp] theorem trapReturn_tick (s : State) : (trapReturn s).tick = s.tick := rfl

/-! ### `setBusy` -/

@[simp] theorem setBusy_params (v : Bool) (s : State) : (setBusy v s).params = s.params := rfl
@[simp] theorem setBusy_engine (v : Bool) (s : State) : (setBusy v s).engine = { s.engine with isBusy := v } := rfl
@[simp] theorem setBusy_dev (v : Bool) (s : State) : (setBusy v s).dev = s.dev := rfl
@[simp] theorem setBusy_mem (v : Bool) (s : State) : (setBusy v s).mem = s.mem := rfl
@[simp] theorem setBusy_stream (v : Bool) (s : State) : (setBusy v s).stream = s.stream := rfl
@[simp] theorem setBusy_hostPc (v : Bool) (s : State) : (setBusy v s).hostPc = s.hostPc := rfl
@[simp] theorem setBusy_hostOps (v : Bool) (s : State) : (setBusy v s).hostOps = s.hostOps := rfl
@[simp] theorem setBusy_hostLoc (v : Bool) (s : State) : (setBusy v s).hostLoc = s.hostLoc := rfl
@[simp] theorem setBusy_handlerActive (v : Bool) (s : State) : (setBusy v s).handlerActive = s.handlerActive := rfl
@[simp] theorem setBusy_handlerPc (v : Bool) (s : State) : (setBusy v s).handlerPc = s.handlerPc := rfl
@[simp] theorem setBusy_handlerLoc (v : Bool) (s : State) : (setBusy v s).handlerLoc = s.handlerLoc := rfl
@[simp] theorem setBusy_trace (v : Bool) (s : State) : (setBusy v s).trace = s.trace := rfl
@[simp] theorem setBusy_schedule (v : Bool) (s : State) : (setBusy v s).schedule = s.schedule := rfl
@[simp] theorem setBusy_tick (v : Bool) (s : State) : (setBusy v s).tick = s.tick := rfl

/-! ### `installBuffers` -/

@[simp] theorem installBuffers_params (s : State) : (installBuffers s).params = s.params := rfl
@[simp] theorem installBuffers_engine (s : State) : (installBuffers s).engine = { s.engine with sendBuffer := s.hostOps.send, recvBuffer := s.hostOps.recv } := rfl
@[simp] theorem installBuffers_dev (s : State) : (installBuffers s).dev = s.dev := rfl
@[simp] theorem installBuffers_mem (s : State) : (installBuffers s).mem = s.mem := rfl
@[simp] theorem installBuffers_stream (s : State) : (installBuffers s).stream = s.stream := rfl
@[simp] theorem installBuffers_hostPc (s : State) : (installBuffers s).hostPc = s.hostPc := rfl
@[simp] theorem installBuffers_hostOps (s : State) : (installBuffers s).hostOps = s.hostOps := rfl
@[simp] theorem installBuffers_hostLoc (s : State) : (installBuffers s).hostLoc = s.hostLoc := rfl
@[simp] theorem installBuffers_handlerActive (s : State) : (installBuffers s).handlerActive = s.handlerActive := rfl
@[simp] theorem installBuffers_handlerPc (s : State) : (installBuffers s).handlerPc = s.handlerPc := rfl
@[simp] theorem installBuffers_handlerLoc (s : State) : (installBuffers s).handlerLoc = s.handlerLoc := rfl
@[simp] theorem installBuffers_trace (s : State) : (installBuffers s).trace = s.trace := rfl
@[simp] theorem installBuffers_schedule (s : State) : (installBuffers s).schedule = s.schedule := rfl
@[simp] theorem installBuffers_tick (s : State) : (installBuffers s).tick = s.tick := rfl

/-! ### `installCounters` -/

@[simp] theorem installCounters_params (s : State) : (installCounters s).params = s.params := rfl
@[simp] theorem installCounters_engine (s : State) : (installCounters s).engine = { s.engine with requestedBytes := s.hostOps.count, remainingBytes := s.hostOps.count } := rfl
@[simp] theorem installCounters_dev (s : State) : (installCounters s).dev = s.dev := rfl
@[simp] theorem installCounters_mem (s : State) : (installCounters s).mem = s.mem := rfl
@[simp] theorem installCounters_stream (s : State) : (installCounters s).stream = s.stream := rfl
@[simp] theorem installCounters_hostPc (s : State) : (installCounters s).hostPc = s.hostPc := rfl
@[simp] theorem installCounters_hostOps (s : State) : (installCounters s).hostOps = s.hostOps := rfl
@[simp] theorem installCounters_hostLoc (s : State) : (installCounters s).hostLoc = s.hostLoc := rfl
@[simp] theorem installCounters_handlerActive (s : State) : (installCounters s).handlerActive = s.handlerActive := rfl
@[simp] theorem installCounters_handlerPc (s : State) : (installCounters s).handlerPc = s.handlerPc := rfl
@[simp] theorem installCounters_handlerLoc (s : State) : (installCounters s).handlerLoc = s.handlerLoc := rfl
@[simp] theorem installCounters_trace (s : State) : (installCounters s).trace = s.trace := rfl
@[simp] theorem installCounters_schedule (s : State) : (installCounters s).schedule = s.schedule := rfl
@[simp] theorem installCounters_tick (s : State) : (installCounters s).tick = s.tick := rfl

/-! ### `installTransferCounters` -/

@[simp] theorem installTransferCounters_params (s : State) : (installTransferCounters s).params = s.params := by unfold installTransferCounters; split <;> rfl
@[simp] theorem installTransferCounters_dev (s : State) : (installTransferCounters s).dev = s.dev := by unfold installTransferCounters; split <;> rfl
@[simp] theorem installTransferCounters_mem (s : State) : (installTransferCounters s).mem = s.mem := by unfold installTransferCounters; split <;> rfl
@[simp] theorem installTransferCounters_stream (s : State) : (installTransferCounters s).stream = s.stream := by unfold installTransferCounters; split <;> rfl
@[simp] theorem installTransferCounters_hostPc (s : State) : (installTransferCounters s).hostPc = s.hostPc := by unfold installTransferCounters; split <;> rfl
@[simp] theorem installTransferCounters_hostOps (s : State) : (installTransferCounters s).hostOps = s.hostOps := by unfold installTransferCounters; split <;> rfl
@[simp] theorem installTransferCounters_hostLoc (s : State) : (installTransferCounters s).hostLoc = s.hostLoc := by unfold installTransferCounters; split <;> rfl
@[simp] theorem installTransferCounters_handlerActive (s : State) : (installTransferCounters s).handlerActive = s.handlerActive := by unfold installTransferCounters; split <;> rfl
@[simp] theorem installTransferCounters_handlerPc (s : State) : (installTransferCounters s).handlerPc = s.handlerPc := by unfold installTransferCounters; split <;> rfl
@[simp] theorem installTransferCounters_handlerLoc (s : State) : (installTransferCounters s).handlerLoc = s.handlerLoc := by unfold installTransferCounters; split <;> rfl
@[simp] theorem installTransferCounters_trace (s : State) : (installTransferCounters s).trace = s.trace := by unfold installTransferCounters; split <;> rfl
@[simp] theorem installTransferCounters_schedule (s : State) : (installTransferCounters s).schedule = s.schedule := by unfold installTransferCounters; split <;> rfl
@[simp] theorem installTransferCounters_tick (s : State) : (installTransferCounters s).tick = s.tick := by unfold installTransferCounters; split <;> rfl

/-! ### `setLocals` -/

@[simp] theorem setLocals_params (a : Agent) (l : Locals) (s : State) : (setLocals a l s).params = s.params := by cases a <;> rfl
@[simp] theorem setLocals_engine (a : Agent) (l : Locals) (s : State) : (setLocals a l s).engine = s.engine := by cases a <;> rfl
@[simp] theorem setLocals_dev (a : Agent) (l : Locals) (s : State) : (setLocals a l s).dev = s.dev := by cases a <;> rfl
@[simp] theorem setLocals_mem (a : Agent) (l : Locals) (s : State) : (setLocals a l s).mem = s.mem := by cases a <;> rfl
@[simp] theorem setLocals_stream (a : Agent) (l : Locals) (s : State) : (setLocals a l s).stream = s.stream := by cases a <;> rfl
@[simp] theorem setLocals_hostPc (a : Agent) (l : Locals) (s : State) : (setLocals a l s).hostPc = s.hostPc := by cases a <;> rfl
@[simp] theorem setLocals_hostOps (a : Agent) (l : Locals) (s : State) : (setLocals a l s).hostOps = s.hostOps := by cases a <;> rfl
@[simp] theorem setLocals_handlerActive (a : Agent) (l : Locals) (s : State) : (setLocals a l s).handlerActive = s.handlerActive := by cases a <;> rfl
@[simp] theorem setLocals_handlerPc (a : Agent) (l : Locals) (s : State) : (setLocals a l s).handlerPc = s.handlerPc := by cases a <;> rfl
@[simp] theorem setLocals_trace (a : Agent) (l : Locals) (s : State) : (setLocals a l s).trace = s.trace := by cases a <;> rfl
@[simp] theorem setLocals_schedule (a : Agent) (l : Locals) (s : State) : (setLocals a l s).schedule = s.schedule := by cases a <;> rfl
@[simp] theorem setLocals_tick (a : Agent) (l : Locals) (s : State) : (setLocals a l s).tick = s.tick := by cases a <;> rfl

/-! ### `goSub` -/

@[simp] theorem goSub_params (a : Agent) (q : SubLine) (s : State) : (goSub a q s).params = s.params := by
  unfold goSub
  repeat' split
  all_goals rfl
@[simp] theorem goSub_engine (a : Agent) (q : SubLine) (s : State) : (goSub a q s).engine = s.engine := by
  unfold goSub
  repeat' split
  all_goals rfl
@[simp] theorem goSub_dev (a : Agent) (q : SubLine) (s : State) : (goSub a q s).dev = s.dev := by
  unfold goSub
  repeat' split
  all_goals rfl
@[simp] theorem goSub_mem (a : Agent) (q : SubLine) (s : State) : (goSub a q s).mem = s.mem := by
  unfold goSub
  repeat' split
  all_goals rfl
@[simp] theorem goSub_stream (a : Agent) (q : SubLine) (s : State) : (goSub a q s).stream = s.stream := by
  unfold goSub
  repeat' split
  all_goals rfl
@[simp] theorem goSub_hostOps (a : Agent) (q : SubLine) (s : State) : (goSub a q s).hostOps = s.hostOps := by
  unfold goSub
  repeat' split
  all_goals rfl
@[simp] theorem goSub_hostLoc (a : Agent) (q : SubLine) (s : State) : (goSub a q s).hostLoc = s.hostLoc := by
  unfold goSub
  repeat' split
  all_goals rfl
@[simp] theorem goSub_handlerActive (a : Agent) (q : SubLine) (s : State) : (goSub a q s).handlerActive = s.handlerActive := by
  unfold goSub
  repeat' split
  all_goals rfl
@[simp] theorem goSub_handlerLoc (a : Agent) (q : SubLine) (s : State) : (goSub a q s).handlerLoc = s.handlerLoc := by
  unfold goSub
  repeat' split
  all_goals rfl
@[simp] theorem goSub_trace (a : Agent) (q : SubLine) (s : State) : (goSub a q s).trace = s.trace := by
  unfold goSub
  repeat' split
  all_goals rfl
@[simp] theorem goSub_schedule (a : Agent) (q : SubLine) (s : State) : (goSub a q s).schedule = s.schedule := by
  unfold goSub
  repeat' split
  all_goals rfl
@[simp] theorem goSub_tick (a : Agent) (q : SubLine) (s : State) : (goSub a q s).tick = s.tick := by
  unfold goSub
  repeat' split
  all_goals rfl

/-! ### `returnToCaller` -/

@[simp] theorem returnToCaller_params (a : Agent) (s : State) : (returnToCaller a s).params = s.params := by
  unfold returnToCaller
  repeat' split
  all_goals rfl
@[simp] theorem returnToCaller_engine (a : Agent) (s : State) : (returnToCaller a s).engine = s.engine := by
  unfold returnToCaller
  repeat' split
  all_goals rfl
@[simp] theorem returnToCaller_dev (a : Agent) (s : State) : (returnToCaller a s).dev = s.dev := by
  unfold returnToCaller
  repeat' split
  all_goals rfl
@[simp] theorem returnToCaller_mem (a : Agent) (s : State) : (returnToCaller a s).mem = s.mem := by
  unfold returnToCaller
  repeat' split
  all_goals rfl
@[simp] theorem returnToCaller_stream (a : Agent) (s : State) : (returnToCaller a s).stream = s.stream := by
  unfold returnToCaller
  repeat' split
  all_goals rfl
@[simp] theorem returnToCaller_hostOps (a : Agent) (s : State) : (returnToCaller a s).hostOps = s.hostOps := by
  unfold returnToCaller
  repeat' split
  all_goals rfl
@[simp] theorem returnToCaller_hostLoc (a : Agent) (s : State) : (returnToCaller a s).hostLoc = s.hostLoc := by
  unfold returnToCaller
  repeat' split
  all_goals rfl
@[simp] theorem returnToCaller_handlerActive (a : Agent) (s : State) : (returnToCaller a s).handlerActive = s.handlerActive := by
  unfold returnToCaller
  repeat' split
  all_goals rfl
@[simp] theorem returnToCaller_handlerLoc (a : Agent) (s : State) : (returnToCaller a s).handlerLoc = s.handlerLoc := by
  unfold returnToCaller
  repeat' split
  all_goals rfl
@[simp] theorem returnToCaller_trace (a : Agent) (s : State) : (returnToCaller a s).trace = s.trace := by
  unfold returnToCaller
  repeat' split
  all_goals rfl
@[simp] theorem returnToCaller_schedule (a : Agent) (s : State) : (returnToCaller a s).schedule = s.schedule := by
  unfold returnToCaller
  repeat' split
  all_goals rfl
@[simp] theorem returnToCaller_tick (a : Agent) (s : State) : (returnToCaller a s).tick = s.tick := by
  unfold returnToCaller
  repeat' split
  all_goals rfl

/-! ### `afterDraw` -/

@[simp] theorem afterDraw_params (s : State) : (afterDraw s).params = s.params := by unfold afterDraw; split <;> rfl
@[simp] theorem afterDraw_engine (s : State) : (afterDraw s).engine = s.engine := by unfold afterDraw; split <;> rfl
@[simp] theorem afterDraw_dev (s : State) : (afterDraw s).dev = s.dev := by unfold afterDraw; split <;> rfl
@[simp] theorem afterDraw_mem (s : State) : (afterDraw s).mem = s.mem := by unfold afterDraw; split <;> rfl
@[simp] theorem afterDraw_stream (s : State) : (afterDraw s).stream = s.stream := by unfold afterDraw; split <;> rfl
@[simp] theorem afterDraw_hostPc (s : State) : (afterDraw s).hostPc = s.hostPc := by unfold afterDraw; split <;> rfl
@[simp] theorem afterDraw_hostOps (s : State) : (afterDraw s).hostOps = s.hostOps := by unfold afterDraw; split <;> rfl
@[simp] theorem afterDraw_hostLoc (s : State) : (afterDraw s).hostLoc = s.hostLoc := by unfold afterDraw; split <;> rfl
@[simp] theorem afterDraw_handlerActive (s : State) : (afterDraw s).handlerActive = s.handlerActive := by unfold afterDraw; split <;> rfl
@[simp] theorem afterDraw_handlerPc (s : State) : (afterDraw s).handlerPc = s.handlerPc := by unfold afterDraw; split <;> rfl
@[simp] theorem afterDraw_handlerLoc (s : State) : (afterDraw s).handlerLoc = s.handlerLoc := by unfold afterDraw; split <;> rfl
@[simp] theorem afterDraw_trace (s : State) : (afterDraw s).trace = s.trace := by unfold afterDraw; split <;> rfl

/-! ### `modeFault` -/

@[simp] theorem modeFault_params (s : State) : (modeFault s).params = s.params := rfl
@[simp] theorem modeFault_engine (s : State) : (modeFault s).engine = s.engine := rfl
@[simp] theorem modeFault_dev (s : State) : (modeFault s).dev = { s.dev with modf := true } := rfl
@[simp] theorem modeFault_mem (s : State) : (modeFault s).mem = s.mem := rfl
@[simp] theorem modeFault_stream (s : State) : (modeFault s).stream = s.stream := rfl
@[simp] theorem modeFault_hostPc (s : State) : (modeFault s).hostPc = s.hostPc := rfl
@[simp] theorem modeFault_hostOps (s : State) : (modeFault s).hostOps = s.hostOps := rfl
@[simp] theorem modeFault_hostLoc (s : State) : (modeFault s).hostLoc = s.hostLoc := rfl
@[simp] theorem modeFault_handlerActive (s : State) : (modeFault s).handlerActive = s.handlerActive := rfl
@[simp] theorem modeFault_handlerPc (s : State) : (modeFault s).handlerPc = s.handlerPc := rfl
@[simp] theorem modeFault_handlerLoc (s : State) : (modeFault s).handlerLoc = s.handlerLoc := rfl
@[simp] theorem modeFault_trace (s : State) : (modeFault s).trace = s.trace ++ [.ext .modeFault] := rfl
@[simp] theorem modeFault_schedule (s : State) : (modeFault s).schedule = s.schedule := rfl
@[simp] theorem modeFault_tick (s : State) : (modeFault s).tick = s.tick := rfl

/-! ### `masterExchange` -/

@[simp] theorem masterExchange_params (b : Byte) (s : State) : (masterExchange b s).params = s.params := by unfold masterExchange; split <;> rfl
@[simp] theorem masterExchange_engine (b : Byte) (s : State) : (masterExchange b s).engine = s.engine := by unfold masterExchange; split <;> rfl
@[simp] theorem masterExchange_mem (b : Byte) (s : State) : (masterExchange b s).mem = s.mem := by unfold masterExchange; split <;> rfl
@[simp] theorem masterExchange_stream (b : Byte) (s : State) : (masterExchange b s).stream = s.stream := by unfold masterExchange; split <;> rfl
@[simp] theorem masterExchange_hostPc (b : Byte) (s : State) : (masterExchange b s).hostPc = s.hostPc := by unfold masterExchange; split <;> rfl
@[simp] theorem masterExchange_hostOps (b : Byte) (s : State) : (masterExchange b s).hostOps = s.hostOps := by unfold masterExchange; split <;> rfl
@[simp] theorem masterExchange_hostLoc (b : Byte) (s : State) : (masterExchange b s).hostLoc = s.hostLoc := by unfold masterExchange; split <;> rfl
@[simp] theorem masterExchange_handlerActive (b : Byte) (s : State) : (masterExchange b s).handlerActive = s.handlerActive := by unfold masterExchange; split <;> rfl
@[simp] theorem masterExchange_handlerPc (b : Byte) (s : State) : (masterExchange b s).handlerPc = s.handlerPc := by unfold masterExchange; split <;> rfl
@[simp] theorem masterExchange_handlerLoc (b : Byte) (s : State) : (masterExchange b s).handlerLoc = s.handlerLoc := by unfold masterExchange; split <;> rfl
@[simp] theorem masterExchange_schedule (b : Byte) (s : State) : (masterExchange b s).schedule = s.schedule := by unfold masterExchange; split <;> rfl
@[simp] theorem masterExchange_tick (b : Byte) (s : State) : (masterExchange b s).tick = s.tick := by unfold masterExchange; split <;> rfl

/-! ### `slaveExchange` -/

@[simp] theorem slaveExchange_params (i m : Byte) (s : State) : (slaveExchange i m s).params = s.params := by unfold slaveExchange; split <;> rfl
@[simp] theorem slaveExchange_engine (i m : Byte) (s : State) : (slaveExchange i m s).engine = s.engine := by unfold slaveExchange; split <;> rfl
@[simp] theorem slaveExchange_mem (i m : Byte) (s : State) : (slaveExchange i m s).mem = s.mem := by unfold slaveExchange; split <;> rfl
@[simp] theorem slaveExchange_stream (i m : Byte) (s : State) : (slaveExchange i m s).stream = s.stream := by unfold slaveExchange; split <;> rfl
@[simp] theorem slaveExchange_hostPc (i m : Byte) (s : State) : (slaveExchange i m s).hostPc = s.hostPc := by unfold slaveExchange; split <;> rfl
@[simp] theorem slaveExchange_hostOps (i m : Byte) (s : State) : (slaveExchange i m s).hostOps = s.hostOps := by unfold slaveExchange; split <;> rfl
@[simp] theorem slaveExchange_hostLoc (i m : Byte) (s : State) : (slaveExchange i m s).hostLoc = s.hostLoc := by unfold slaveExchange; split <;> rfl
@[simp] theorem slaveExchange_handlerActive (i m : Byte) (s : State) : (slaveExchange i m s).handlerActive = s.handlerActive := by unfold slaveExchange; split <;> rfl
@[simp] theorem slaveExchange_handlerPc (i m : Byte) (s : State) : (slaveExchange i m s).handlerPc = s.handlerPc := by unfold slaveExchange; split <;> rfl
@[simp] theorem slaveExchange_handlerLoc (i m : Byte) (s : State) : (slaveExchange i m s).handlerLoc = s.handlerLoc := by unfold slaveExchange; split <;> rfl
@[simp] theorem slaveExchange_schedule (i m : Byte) (s : State) : (slaveExchange i m s).schedule = s.schedule := by unfold slaveExchange; split <;> rfl
@[simp] theorem slaveExchange_tick (i m : Byte) (s : State) : (slaveExchange i m s).tick = s.tick := by unfold slaveExchange; split <;> rfl

/-! ### Locals and positions -/

@[simp] theorem setLocals_host_hostLoc (l : Locals) (s : State) : (setLocals .host l s).hostLoc = l := rfl
@[simp] theorem setLocals_host_handlerLoc (l : Locals) (s : State) : (setLocals .host l s).handlerLoc = s.handlerLoc := rfl
@[simp] theorem setLocals_handler_handlerLoc (l : Locals) (s : State) : (setLocals .handler l s).handlerLoc = l := rfl
@[simp] theorem setLocals_handler_hostLoc (l : Locals) (s : State) : (setLocals .handler l s).hostLoc = s.hostLoc := rfl

@[simp] theorem locals_host (s : State) : locals .host s = s.hostLoc := rfl
@[simp] theorem locals_handler (s : State) : locals .handler s = s.handlerLoc := rfl
@[simp] theorem locals_setLocals (a : Agent) (l : Locals) (s : State) : locals a (setLocals a l s) = l := by cases a <;> rfl
@[simp] theorem locals_goSub (a b : Agent) (q : SubLine) (s : State) : locals a (goSub b q s) = locals a s := by
  cases a <;> simp
@[simp] theorem locals_returnToCaller (a b : Agent) (s : State) : locals a (returnToCaller b s) = locals a s := by
  cases a <;> simp
@[simp] theorem locals_log (a : Agent) (e : Event) (s : State) : locals a (log e s) = locals a s := by cases a <;> rfl

@[simp] theorem setK_eq (a : Agent) (v : Word) (s : State) : setK a v s = setLocals a { locals a s with k := v } s := rfl
@[simp] theorem setSr_eq (a : Agent) (v : Word) (s : State) : setSr a v s = setLocals a { locals a s with sr := v } s := rfl
@[simp] theorem setBytes_eq (a : Agent) (v : Word) (s : State) :
    setBytes a v s = setLocals a { locals a s with bytes := v } s := rfl
@[simp] theorem setCr_eq (a : Agent) (v : Word) (s : State) : setCr a v s = setLocals a { locals a s with cr := v } s := rfl
@[simp] theorem setB_eq (a : Agent) (v : Byte) (s : State) : setB a v s = setLocals a { locals a s with b := v } s := rfl

@[simp] theorem goSub_host_handlerPc (q : SubLine) (s : State) : (goSub .host q s).handlerPc = s.handlerPc := by
  simp only [goSub]; split <;> rfl
@[simp] theorem goSub_handler_hostPc (q : SubLine) (s : State) : (goSub .handler q s).hostPc = s.hostPc := by
  simp only [goSub]; split <;> rfl
@[simp] theorem returnToCaller_host_handlerPc (s : State) : (returnToCaller .host s).handlerPc = s.handlerPc := by
  simp only [returnToCaller]; split <;> rfl
@[simp] theorem returnToCaller_handler_hostPc (s : State) : (returnToCaller .handler s).hostPc = s.hostPc := by
  simp only [returnToCaller]; split <;> rfl

theorem goSub_hostPc_sub {c : HostLine} {q : SubLine} {s : State} (h : s.hostPc = .sub c q) (q' : SubLine) :
    (goSub .host q' s).hostPc = .sub c q' := by simp [goSub, h]
theorem goSub_hostPc_line {c : HostLine} {s : State} (h : s.hostPc = .line c) (q' : SubLine) :
    (goSub .host q' s).hostPc = .sub c q' := by simp [goSub, h]
theorem goSub_handlerPc_sub {c : HandlerLine} {q : SubLine} {s : State} (h : s.handlerPc = .sub c q) (q' : SubLine) :
    (goSub .handler q' s).handlerPc = .sub c q' := by simp [goSub, h]
theorem goSub_handlerPc_line {c : HandlerLine} {s : State} (h : s.handlerPc = .line c) (q' : SubLine) :
    (goSub .handler q' s).handlerPc = .sub c q' := by simp [goSub, h]
theorem returnToCaller_hostPc_sub {c : HostLine} {q : SubLine} {s : State} (h : s.hostPc = .sub c q) :
    (returnToCaller .host s).hostPc = .line (afterHostCall c) := by simp [returnToCaller, h]
theorem returnToCaller_handlerPc_sub {c : HandlerLine} {q : SubLine} {s : State} (h : s.handlerPc = .sub c q) :
    (returnToCaller .handler s).handlerPc = .line (afterHandlerCall c) := by simp [returnToCaller, h]

end Sys2Proof.Machine
end

