-- ==== Sys2Proof/Laws/Flags.lean ====
section
/-! SUPPORT. The laws of the flag computations and of the conditions under which another agent can step. -/

namespace Sys2Proof.Machine

/-! ### Control register values -/

theorem flagAt_getLsbD {i : Nat} (hi : i < 32) (b : Bool) (j : Nat) :
    (flagAt i b).getLsbD j = (b && decide (j = i)) := by
  cases b
  · simp [flagAt]
  · rw [flagAt, BitVec.getLsbD_shiftLeft]
    by_cases h : j = i
    · subst h; simpa using hi
    · simp [h]; intros; omega

@[simp] theorem crStored_crStored (v : Word) : crStored (crStored v) = crStored v := by
  simp [crStored, BitVec.and_assoc]

/-- The select field written over a value read is stored whole (R89). -/
@[simp] theorem crStored_crWithSs (v : Word) (e : BitVec 4) : crStored (crWithSs (crStored v) e) = crWithSs (crStored v) e := by
  apply BitVec.eq_of_getLsbD_eq; intro j hj
  interval_cases j <;> simp [crStored, crWithSs, Config.crStoredMask, Config.ssMask, Config.ssShift]

/-- The options written over a value read are stored whole (R89). -/
@[simp] theorem crStored_crConfigured (v : Word) (o : BitVec 3) : crStored (crConfigured (crStored v) o) = crConfigured (crStored v) o := by
  apply BitVec.eq_of_getLsbD_eq; intro j hj
  interval_cases j <;> simp [crStored, crConfigured, Config.crStoredMask, Config.mstrenMask, Config.manualCsMask, Config.manstrtEnMask, flagAt]

/-- The deasserted selection written over a value read is stored whole (R89). -/
@[simp] theorem crStored_crDeasserted (v : Word) : crStored (crDeasserted (crStored v)) = crDeasserted (crStored v) := by
  apply BitVec.eq_of_getLsbD_eq; intro j hj
  interval_cases j <;> simp [crStored, crDeasserted, Config.crStoredMask, Config.ssMask]

/-- The start trigger is not stored (R88, R89). -/
@[simp] theorem crStored_crWithStart (v : Word) : crStored (crWithStart v) = crStored v := by
  apply BitVec.eq_of_getLsbD_eq; intro j hj
  interval_cases j <;> simp [crStored, crWithStart, Config.crStoredMask, Config.manstrtMask]

@[simp] theorem crStored_crReset : crStored Config.crReset = Config.crReset := by decide

@[simp] theorem crManualCs_crStored (v : Word) : crManualCs (crStored v) = crManualCs v := by
  simp [crManualCs, crStored, Config.crStoredMask]

@[simp] theorem crMstren_crStored (v : Word) : crMstren (crStored v) = crMstren v := by
  simp [crMstren, crStored, Config.crStoredMask]

@[simp] theorem crManstrtEn_crStored (v : Word) : crManstrtEn (crStored v) = crManstrtEn v := by
  simp [crManstrtEn, crStored, Config.crStoredMask]

@[simp] theorem crManstrt_crStored (v : Word) : crManstrt (crStored v) = false := by
  simp [crManstrt, crStored, Config.crStoredMask]

/-- Only a value with the trigger arms a start (R89). -/
@[simp] theorem crArms_disabled (v : Word) : crArms false v = false := by simp [crArms]

/-- Neither the select field nor the options written over a value read arm a start (R89). -/
@[simp] theorem crArms_crWithSs (en : Bool) (v : Word) (e : BitVec 4) : crArms en (crWithSs (crStored v) e) = false := by
  simp [crArms, crManstrt, crWithSs, crStored, Config.crStoredMask, Config.ssMask, Config.ssShift]

@[simp] theorem crArms_crConfigured (en : Bool) (v : Word) (o : BitVec 3) :
    crArms en (crConfigured (crStored v) o) = false := by
  simp [crArms, crManstrt, crConfigured, crStored, Config.crStoredMask, Config.mstrenMask, Config.manualCsMask,
    Config.manstrtEnMask, flagAt]

@[simp] theorem crArms_crDeasserted (en : Bool) (v : Word) : crArms en (crDeasserted (crStored v)) = false := by
  simp [crArms, crManstrt, crDeasserted, crStored, Config.crStoredMask, Config.ssMask]

/-- The start trigger arms a start in master mode with manual start on an enabled device (R89, R185). -/
@[simp] theorem crArms_crWithStart (en : Bool) (v : Word) :
    crArms en (crWithStart v) = (crManstrtEn v && crMstren v && en) := by
  simp [crArms, crManstrt, crManstrtEn, crMstren, crWithStart, Config.manstrtMask]

/-- Writing the select field leaves the mode and the manual start as they are (R187). -/
@[simp] theorem crMstren_crWithSs (v : Word) (e : BitVec 4) : crMstren (crWithSs v e) = crMstren v := by
  simp [crMstren, crWithSs, Config.ssMask, Config.ssShift]

@[simp] theorem crManstrtEn_crWithSs (v : Word) (e : BitVec 4) : crManstrtEn (crWithSs v e) = crManstrtEn v := by
  simp [crManstrtEn, crWithSs, Config.ssMask, Config.ssShift]

/-- Deasserting undoes the select field, whatever it was (R186). -/
@[simp] theorem crDeasserted_crWithSs (v : Word) (e : BitVec 4) : crDeasserted (crWithSs v e) = crDeasserted v := by
  apply BitVec.eq_of_getLsbD_eq; intro j hj
  interval_cases j <;> simp [crDeasserted, crWithSs, Config.ssMask, Config.ssShift]

/-! ### The interrupt line and the other agents -/

/-- The interrupt line, by the fields it depends on (R57): neither `CR` nor the enable is one of them. -/
def irqOf (p : Params) (rxovr modf txuf : Bool) (imr : BitVec 7) (tx rx : List Byte) : Bool :=
  irqLine p ⟨0, rxovr, modf, txuf, imr, false, tx, rx, false⟩

theorem irqLine_eq (p : Params) (d : Dev) :
    irqLine p d = irqOf p d.rxovr d.modf d.txuf d.imr d.txFifo d.rxFifo := rfl

/-- On an enabled device some other agent can always step; on a disabled one only the platform can (R290, R300). -/
theorem otherEnabled_eq (s : State) :
    otherEnabled s = (s.dev.en || (!s.handlerActive &&
      (irqOf s.params s.dev.rxovr s.dev.modf s.dev.txuf s.dev.imr s.dev.txFifo s.dev.rxFifo && s.params.irqConnected))) := by
  simp only [otherEnabled, masterEnabled, slaveEnabled, modeFaultEnabled, startEnabled, irqLine_eq]
  rcases s.dev.en <;> rcases crMstren s.dev.cr <;> simp [Bool.and_comm, Bool.and_left_comm]

/-- `Undisturbed`, in the terms of `otherEnabled_eq`. -/
theorem Undisturbed.eqs {s : State} (h : Undisturbed s) :
    s.dev.en = false ∧
      (irqOf s.params s.dev.rxovr s.dev.modf s.dev.txuf s.dev.imr s.dev.txFifo s.dev.rxFifo && s.params.irqConnected)
        = false := by
  refine ⟨h.1, ?_⟩
  rcases h.2 with h | h
  · rw [irqLine_eq] at h; simp [h]
  · simp [h]

/-- Popping the RX FIFO and clearing MODF raise no interrupt, where the FIFO holds at most `D` bytes (R56, R57). -/
theorem irqOf_pop {p : Params} {a b c : Bool} {m : BitVec 7} {t : List Byte} {x : Byte} {r : List Byte}
    (hl : (x :: r).length ≤ fifoDepth p) (h : irqOf p a b c m t (x :: r) = false) : irqOf p a b c m t r = false := by
  simp only [irqOf, irqLine, bne_eq_false_iff_eq] at h ⊢
  apply BitVec.eq_of_getLsbD_eq
  intro j _
  have hj := congrArg (BitVec.getLsbD · j) h
  simp only [List.length_cons] at hl
  simp only [srValue, BitVec.getLsbD_and, BitVec.getLsbD_or, flagAt_getLsbD (show 0 < 32 by decide),
    flagAt_getLsbD (show 1 < 32 by decide), flagAt_getLsbD (show 2 < 32 by decide), flagAt_getLsbD (show 3 < 32 by decide),
    flagAt_getLsbD (show 4 < 32 by decide), flagAt_getLsbD (show 5 < 32 by decide), flagAt_getLsbD (show 6 < 32 by decide)]
    at hj ⊢
  have hne : (r.length == fifoDepth p) = false := by simp; omega
  rw [hne]
  by_cases h4 : j = 4
  · subst h4; simp at hj ⊢; simp [hj]
  · simp_all
    intro hb
    exact hj (hb.elim (fun hb => .inl (.inl hb)) .inr)

end Sys2Proof.Machine
end

