-- ==== Sys2Proof/Laws/Registers.lean ====
section
/-! SUPPORT. What each register access and each buffer access of the engine does, said once (spec/20_memory.md R88 to R95). -/

namespace Sys2Proof.Machine

/-! ### Register accesses at the engine's offsets -/

@[simp] theorem regRead_cr (s : State) (k : Word → State → Result) :
    regRead Config.offCr s k = k (crStored s.dev.cr) (log (.rdReg Config.offCr (crStored s.dev.cr)) s) := rfl

@[simp] theorem regRead_sr (s : State) (k : Word → State → Result) :
    regRead Config.offSr s k = k (srValue s.params s.dev) (log (.rdReg Config.offSr (srValue s.params s.dev)) s) := rfl

/-- A read of `RXD` with a byte to pop (R95). -/
theorem regRead_rxd_cons {s : State} {b : Byte} {rest : List Byte} (h : s.dev.rxFifo = b :: rest)
    (k : Word → State → Result) :
    regRead Config.offRxd s k =
      k (b.setWidth 32) (log (.rdReg Config.offRxd (b.setWidth 32)) { s with dev := { s.dev with rxFifo := rest } }) := by
  have : regRead Config.offRxd s k =
      k (readReg .rxd s).1 (log (.rdReg Config.offRxd (readReg .rxd s).1) (readReg .rxd s).2) := rfl
  rw [this]; simp only [readReg, h]

/-- A read of an empty `RXD` draws a byte and changes nothing else (R95). -/
theorem regRead_rxd_nil {s : State} (h : s.dev.rxFifo = []) (k : Word → State → Result) :
    regRead Config.offRxd s k =
      k ((Config.emptyRxByte s.tick).setWidth 32)
        (log (.rdReg Config.offRxd ((Config.emptyRxByte s.tick).setWidth 32)) { s with tick := s.tick + 1 }) := by
  have : regRead Config.offRxd s k =
      k (readReg .rxd s).1 (log (.rdReg Config.offRxd (readReg .rxd s).1) (readReg .rxd s).2) := rfl
  rw [this]; simp only [readReg, h]

@[simp] theorem regWrite_cr (v : Word) (s : State) (k : State → Result) :
    regWrite Config.offCr v s k = k (log (.wrReg Config.offCr v) { s with dev := writeReg .cr v s.dev }) := rfl

@[simp] theorem regWrite_sr (v : Word) (s : State) (k : State → Result) :
    regWrite Config.offSr v s k = k (log (.wrReg Config.offSr v) { s with dev := writeReg .sr v s.dev }) := rfl

@[simp] theorem regWrite_ier (v : Word) (s : State) (k : State → Result) :
    regWrite Config.offIer v s k = k (log (.wrReg Config.offIer v) { s with dev := writeReg .ier v s.dev }) := rfl

@[simp] theorem regWrite_idr (v : Word) (s : State) (k : State → Result) :
    regWrite Config.offIdr v s k = k (log (.wrReg Config.offIdr v) { s with dev := writeReg .idr v s.dev }) := rfl

@[simp] theorem regWrite_er (v : Word) (s : State) (k : State → Result) :
    regWrite Config.offEr v s k = k (log (.wrReg Config.offEr v) { s with dev := writeReg .er v s.dev }) := rfl

/-- A write of `TXD`: a push, or a fault when the FIFO is full (R94). -/
theorem regWrite_txd (v : Word) (s : State) (k : State → Result) :
    regWrite Config.offTxd v s k =
      if fifoDepth s.params ≤ s.dev.txFifo.length then .fault (.txFifoOverflow s)
      else k (log (.wrReg Config.offTxd v) { s with dev := { s.dev with txFifo := s.dev.txFifo ++ [v.setWidth 8] } }) := by
  have : regWrite Config.offTxd v s k =
      if overflows .txd s then .fault (.txFifoOverflow s)
      else k (log (.wrReg Config.offTxd v) { s with dev := writeReg .txd v s.dev }) := rfl
  rw [this]; simp only [overflows, writeReg, decide_eq_true_eq]

/-! ### Reads change only the RX FIFO and the draw counter -/

theorem readReg_state (r : Reg) (s : State) :
    (readReg r s).2 = s ∨ (readReg r s).2 = { s with tick := s.tick + 1 } ∨
      ∃ b rest, s.dev.rxFifo = b :: rest ∧ (readReg r s).2 = { s with dev := { s.dev with rxFifo := rest } } := by
  cases r <;> simp only [readReg, true_or, or_true]
  split
  · next b rest h => exact .inr (.inr ⟨b, rest, h, rfl⟩)
  · exact .inr (.inl rfl)

/-! ### Buffer accesses -/

/-- If a buffer read goes on, it goes on at an address of buffer memory, with the byte there (R81). -/
theorem memRead_next {a : Nat} {s t : State} {k : Byte → State → Result} (h : memRead a s k = .next t) :
    a < Config.addressLimit ∧ inBlock s.engine a = false ∧
      k (Memory.read s.mem a) (log (.rdMem a (Memory.read s.mem a)) s) = .next t := by
  unfold memRead at h
  split at h
  · cases h
  · split at h
    · cases h
    · next h1 h2 => exact ⟨by omega, by simpa using h2, h⟩

/-- If a buffer write goes on, it has written one byte of buffer memory (R81). -/
theorem memWrite_next {a : Nat} {v : Byte} {s t : State} {k : State → Result} (h : memWrite a v s k = .next t) :
    a < Config.addressLimit ∧ inBlock s.engine a = false ∧
      k (log (.wrMem a v) { s with mem := Memory.write s.mem a v }) = .next t := by
  unfold memWrite at h
  split at h
  · cases h
  · split at h
    · cases h
    · next h1 h2 => exact ⟨by omega, by simpa using h2, h⟩

theorem memRead_ok {a : Nat} {s : State} (ha : a < Config.addressLimit) (hb : inBlock s.engine a = false)
    (k : Byte → State → Result) :
    memRead a s k = k (Memory.read s.mem a) (log (.rdMem a (Memory.read s.mem a)) s) := by
  unfold memRead; rw [if_neg (by omega), hb]; simp

theorem memWrite_ok {a : Nat} {s : State} (ha : a < Config.addressLimit) (hb : inBlock s.engine a = false) (v : Byte)
    (k : State → Result) :
    memWrite a v s k = k (log (.wrMem a v) { s with mem := Memory.write s.mem a v }) := by
  unfold memWrite; rw [if_neg (by omega), hb]; simp

/-! ### Callback and counters -/

/-- If a callback goes on, one was registered, and the step records it (R334). -/
theorem callback_next {kind : EventKind} {count : Word} {s t : State} {k : State → Result}
    (h : callback kind count s k = .next t) :
    ∃ id, s.engine.statusCallback = .registered id ∧ k (log (.cb s.engine.callbackContext id kind count) s) = .next t := by
  unfold callback at h
  split at h
  · cases h
  · next id hid => exact ⟨id, hid, h⟩

theorem callback_registered {s : State} {id : Word} (h : s.engine.statusCallback = .registered id) (kind : EventKind)
    (count : Word) (k : State → Result) :
    callback kind count s k = k (log (.cb s.engine.callbackContext id kind count) s) := by
  simp [callback, h]

/-- If a difference goes on, it was not negative (R190). -/
theorem diff_next {s t : State} {k : Word → Result} (h : diff s k = .next t) :
    s.engine.remainingBytes ≤ s.engine.requestedBytes ∧
      k (s.engine.requestedBytes - s.engine.remainingBytes) = .next t := by
  unfold diff at h
  split at h
  · cases h
  · next hlt => exact ⟨BitVec.not_lt.1 hlt, h⟩

theorem checkReady_next {s t : State} {r : Result} (h : checkReady s r = .next t) :
    s.engine.isReady = true ∧ r = .next t := by
  unfold checkReady at h
  split at h
  · next hr => exact ⟨hr, h⟩
  · cases h

/-! ### The lines shared by several commands -/

@[simp] theorem readCrLocal_eq (a : Agent) (go : State → State) (s : State) :
    readCrLocal a go s =
      .next (go (setCr a (crStored s.dev.cr) (log (.rdReg Config.offCr (crStored s.dev.cr)) s))) := rfl

@[simp] theorem readSrLocal_eq (a : Agent) (go : State → State) (s : State) :
    readSrLocal a go s =
      .next (go (setSr a (srValue s.params s.dev) (log (.rdReg Config.offSr (srValue s.params s.dev)) s))) := rfl

@[simp] theorem writeSelect_eq (a : Agent) (go : State → State) (s : State) :
    writeSelect a go s =
      .next (go (log (.wrReg Config.offCr (crWithSs (locals a s).cr s.engine.slaveSelect))
        { s with dev := writeReg .cr (crWithSs (locals a s).cr s.engine.slaveSelect) s.dev })) := rfl

end Sys2Proof.Machine
end

