-- ==== Sys2Proof/Laws/Lines.lean ====
section
/-! SUPPORT. What one line of an agent can do, said once: what it leaves alone (`LineFrame`), and its effect on the engine,
the register block and the memory (`LineEffect`). -/

namespace Sys2Proof.Machine

/-- What no line changes, and what a line leaves of the other agent. -/
structure LineFrame (a : Agent) (s t : State) : Prop where
  params : t.params = s.params
  schedule : t.schedule = s.schedule
  stream : t.stream = s.stream
  trace : s.trace <+: t.trace
  other : match a with
    | .host => t.handlerActive = s.handlerActive ∧ t.handlerPc = s.handlerPc ∧ t.handlerLoc = s.handlerLoc
    | .handler => t.hostPc = s.hostPc ∧ t.hostOps = s.hostOps ∧ t.hostLoc = s.hostLoc

/-- What one line can make of the engine record. -/
inductive EngineEffect (s : State) : Engine → Prop where
  | busy (v : Bool) : EngineEffect s { s.engine with isBusy := v }
  | buffers : EngineEffect s { s.engine with sendBuffer := s.hostOps.send, recvBuffer := s.hostOps.recv }
  | counters : EngineEffect s { s.engine with requestedBytes := s.hostOps.count, remainingBytes := s.hostOps.count }
  | countersAndTotal : EngineEffect s { s.engine with
      requestedBytes := s.hostOps.count
      remainingBytes := s.hostOps.count
      totalBytes := s.hostOps.count }
  | sendAdvance : EngineEffect s { s.engine with sendBuffer := s.engine.sendBuffer.map (· + 1) }
  | recvAdvance : EngineEffect s { s.engine with recvBuffer := s.engine.recvBuffer.map (· + 1) }
  | queued (h : s.engine.remainingBytes ≠ 0#32) :
      EngineEffect s { s.engine with remainingBytes := s.engine.remainingBytes - 1#32 }
  | retired (h : s.engine.requestedBytes ≠ 0#32) :
      EngineEffect s { s.engine with requestedBytes := s.engine.requestedBytes - 1#32 }
  | zeroed : EngineEffect s { s.engine with requestedBytes := 0#32, remainingBytes := 0#32 }
  | selected (k : Word) : EngineEffect s { s.engine with slaveSelect := enc k }
  | context : EngineEffect s { s.engine with callbackContext := s.hostOps.ctx }
  | handler (h : s.hostPc = .line (.setStatusHandler .k4)) :
      EngineEffect s { s.engine with statusCallback := .registered s.hostOps.handler }
  | base (h : s.hostPc = .line (.init .i3)) : EngineEffect s { s.engine with baseAddress := s.hostOps.base }
  | stubbed : EngineEffect s { s.engine with statusCallback := .stub, callbackContext := 0#32 }
  | cleared : EngineEffect s { s.engine with
      sendBuffer := none
      recvBuffer := none
      requestedBytes := 0#32
      remainingBytes := 0#32 }
  | ready : EngineEffect s { s.engine with isReady := true }

/-- What one line can do to the engine, the register block and the memory. -/
inductive LineEffect (a : Agent) (s t : State) : Prop where
  | quiet (he : t.engine = s.engine) (hd : t.dev = s.dev) (hm : t.mem = s.mem)
  | pop (b : Byte) (rest : List Byte) (hb : s.dev.rxFifo = b :: rest) (he : t.engine = s.engine)
      (hd : t.dev = { s.dev with rxFifo := rest }) (hm : t.mem = s.mem)
  | write (r : Reg) (v : Word) (ho : overflows r s = false) (he : t.engine = s.engine)
      (hd : t.dev = writeReg r v s.dev) (hm : t.mem = s.mem)
  | store (addr : Nat) (hp : AtStore a s) (hr : s.engine.recvBuffer = some addr)
      (ha : addr < Config.addressLimit) (hb : inBlock s.engine addr = false) (he : t.engine = s.engine)
      (hd : t.dev = s.dev) (hm : t.mem = Memory.write s.mem addr (locals a s).b)
  | engine (he : EngineEffect s t.engine) (hd : t.dev = s.dev) (hm : t.mem = s.mem)

/-- A sub-sequence line, by frame. -/
theorem subLine_frame {a : Agent} {q : SubLine} {s t : State} (h : subLine a q s = .next t) : LineFrame a s t := by
  cases q <;> simp only [subLine, fillF1, fillF2, fillF3, fillF4, fillF5, fillF6, fillF7, drainD1, drainD2, drainD3,
    drainD4, drainD5, drainD6, drainD7, startM1, startM2, startM3, deassertC1, deassertC2, deassertC3, abortA2, abortA3,
    abortA4, abortA5, abortA6, abortA7, abortA8, abortA9, regWrite_cr, regWrite_sr, regWrite_er, readCrLocal_eq,
    readSrLocal_eq] at h
  case f3 =>
    split at h
    · cases h
    · obtain ⟨_, _, h⟩ := memRead_next h
      cases h; constructor <;> cases a <;> simp
  case f4 =>
    rw [regWrite_txd] at h
    split at h <;> cases h
    constructor <;> cases a <;> simp
  case d2 =>
    rcases hr : s.dev.rxFifo with _ | ⟨b, rest⟩
    · rw [regRead_rxd_nil hr] at h; cases h; constructor <;> cases a <;> simp
    · rw [regRead_rxd_cons hr] at h; cases h; constructor <;> cases a <;> simp
  case a5 =>
    rcases hr : s.dev.rxFifo with _ | ⟨b, rest⟩
    · rw [regRead_rxd_nil hr] at h; cases h; constructor <;> cases a <;> simp
    · rw [regRead_rxd_cons hr] at h; cases h; constructor <;> cases a <;> simp
  case d4 =>
    split at h
    · cases h; constructor <;> cases a <;> simp
    · obtain ⟨_, _, h⟩ := memWrite_next h
      cases h; constructor <;> cases a <;> simp
  all_goals first
    | (cases h; constructor <;> cases a <;> simp)
    | (split at h <;> cases h <;> constructor <;> cases a <;> simp)

theorem subLine_effect {a : Agent} {q : SubLine} {s t : State} (h : subLine a q s = .next t)
    (hp : q = .d4 → AtStore a s) : LineEffect a s t := by
  cases q <;> simp only [subLine, fillF1, fillF2, fillF3, fillF4, fillF5, fillF6, fillF7, drainD1, drainD2, drainD3,
    drainD4, drainD5, drainD6, drainD7, startM1, startM2, startM3, deassertC1, deassertC2, deassertC3, abortA2, abortA3,
    abortA4, abortA5, abortA6, abortA7, abortA8, abortA9, regWrite_cr, regWrite_sr, regWrite_er, readCrLocal_eq,
    readSrLocal_eq] at h
  case f3 =>
    split at h
    · cases h
    · obtain ⟨_, _, h⟩ := memRead_next h
      cases h; exact .quiet (by simp) (by simp) (by simp)
  case f4 =>
    rw [regWrite_txd] at h
    split at h
    · cases h
    · next hlt =>
      cases h
      exact .write .txd ((locals a s).b.setWidth 32) (by simp only [overflows, decide_eq_false_iff_not]; exact hlt)
        (by simp) (by simp [writeReg]) (by simp)
  case f5 => cases h; exact .engine (by simpa using .sendAdvance) (by simp) (by simp)
  case f6 =>
    split at h
    · cases h
    · next hne => cases h; exact .engine (by simpa using .queued hne) (by simp) (by simp)
  case d2 =>
    rcases hr : s.dev.rxFifo with _ | ⟨b, rest⟩
    · rw [regRead_rxd_nil hr] at h; cases h; exact .quiet (by simp) (by simp) (by simp)
    · rw [regRead_rxd_cons hr] at h; cases h; exact .pop b rest hr (by simp) (by simp) (by simp)
  case a5 =>
    rcases hr : s.dev.rxFifo with _ | ⟨b, rest⟩
    · rw [regRead_rxd_nil hr] at h; cases h; exact .quiet (by simp) (by simp) (by simp)
    · rw [regRead_rxd_cons hr] at h; cases h; exact .pop b rest hr (by simp) (by simp) (by simp)
  case d4 =>
    split at h
    · cases h; exact .quiet (by simp) (by simp) (by simp)
    · next addr hr =>
      obtain ⟨ha, hb, h⟩ := memWrite_next h
      cases h; exact .store addr (hp rfl) hr ha hb (by simp) (by simp) (by simp)
  case d5 => cases h; exact .engine (by simpa using .recvAdvance) (by simp) (by simp)
  case d6 =>
    split at h
    · cases h
    · next hne => cases h; exact .engine (by simpa using .retired hne) (by simp) (by simp)
  case m3 => cases h; exact .write .cr _ rfl (by simp) (by simp; rfl) (by simp)
  case c3 => cases h; exact .write .cr _ rfl (by simp) (by simp; rfl) (by simp)
  case a2 => cases h; exact .write .er _ rfl (by simp) (by simp; rfl) (by simp)
  case a7 => cases h; exact .write .sr _ rfl (by simp) (by simp; rfl) (by simp)
  case a8 => cases h; exact .engine (by simpa using .zeroed) (by simp) (by simp)
  case a9 => cases h; exact .engine (by simpa using .busy false) (by simp) (by simp)
  all_goals first
    | (cases h; exact .quiet (by simp) (by simp) (by simp))
    | (split at h <;> cases h <;> exact .quiet (by simp) (by simp) (by simp))

/-! ### A line that calls a sub-sequence -/

theorem callSub_frame {a : Agent} {q : SubLine} {s t : State} (h : callSub a q s = .next t) : LineFrame a s t := by
  have hf := subLine_frame (show subLine a q (goSub a q s) = .next t from h)
  refine ⟨by simpa using hf.params, by simpa using hf.schedule, by simpa using hf.stream, by simpa using hf.trace, ?_⟩
  have ho := hf.other
  cases a <;> simpa using ho

/-- The first lines of `Fill`, `StartIfManual`, `Drain` and `DeassertIfManual` change no engine field, register or byte. -/
theorem callSub_quiet {a : Agent} {q : SubLine} {s t : State} (hq : q = .f1 ∨ q = .m1 ∨ q = .d1 ∨ q = .c1)
    (h : callSub a q s = .next t) : LineEffect a s t := by
  rcases hq with rfl | rfl | rfl | rfl <;>
    simp only [callSub, subLine, fillF1, startM1, drainD1, deassertC1, readCrLocal_eq] at h
  · cases h; exact .quiet (by simp) (by simp) (by simp)
  · cases h; exact .quiet (by simp) (by simp) (by simp)
  · split at h <;> cases h <;> exact .quiet (by simp) (by simp) (by simp)
  · cases h; exact .quiet (by simp) (by simp) (by simp)

/-- The first line of `AbortSeq` disables the device. -/
theorem callSub_abort {a : Agent} {s t : State} (h : callSub a .a2 s = .next t) : LineEffect a s t := by
  simp only [callSub, subLine, abortA2, regWrite_er] at h
  cases h
  exact .write .er 0#32 rfl (by simp) (by simp) (by simp)

/-! ### The lines of the Host -/

theorem initLine_frame {l : InitLine} {s t : State} (h : initLine l s = .next t) : LineFrame .host s t := by
  cases l <;> simp only [initLine, regWrite_cr] at h
  case i8 => exact callSub_frame h
  all_goals first
    | (cases h; constructor <;> simp)
    | (split at h <;> cases h <;> constructor <;> simp)

theorem initLine_effect {l : InitLine} {s t : State} (hp : s.hostPc = .line (.init l)) (h : initLine l s = .next t) :
    LineEffect .host s t := by
  cases l <;> simp only [initLine, regWrite_cr] at h
  case i3 => cases h; exact .engine (by simpa using .base hp) (by simp) (by simp)
  case i4 => cases h; exact .engine (by simpa using .stubbed) (by simp) (by simp)
  case i5 => cases h; exact .engine (by simpa using .cleared) (by simp) (by simp)
  case i6 => cases h; exact .engine (by simpa using .selected _) (by simp) (by simp)
  case i7 => cases h; exact .engine (by simpa using .ready) (by simp) (by simp)
  case i8 => exact callSub_abort h
  case i9 => cases h; exact .write .cr _ rfl (by simp) (by simp; rfl) (by simp)
  all_goals first
    | (cases h; exact .quiet (by simp) (by simp) (by simp))
    | (split at h <;> cases h <;> exact .quiet (by simp) (by simp) (by simp))

theorem setStatusHandlerLine_frame {l : SetStatusHandlerLine} {s t : State} (h : setStatusHandlerLine l s = .next t) :
    LineFrame .host s t := by
  cases l <;> simp only [setStatusHandlerLine] at h
  case k1 => obtain ⟨-, h⟩ := checkReady_next h; cases h; constructor <;> simp
  all_goals first
    | (cases h; constructor <;> simp)
    | (split at h <;> cases h; constructor <;> simp)

theorem setStatusHandlerLine_effect {l : SetStatusHandlerLine} {s t : State}
    (hp : s.hostPc = .line (.setStatusHandler l)) (h : setStatusHandlerLine l s = .next t) : LineEffect .host s t := by
  cases l <;> simp only [setStatusHandlerLine] at h
  case k1 => obtain ⟨-, h⟩ := checkReady_next h; cases h; exact .quiet (by simp) (by simp) (by simp)
  case k3 => cases h; exact .engine (by simpa using .context) (by simp) (by simp)
  case k4 => cases h; exact .engine (by simpa using .handler hp) (by simp) (by simp)
  all_goals first
    | (cases h; exact .quiet (by simp) (by simp) (by simp))
    | (split at h <;> cases h; exact .quiet (by simp) (by simp) (by simp))

theorem setSsLine_frame {l : SetSsLine} {s t : State} (h : setSsLine l s = .next t) : LineFrame .host s t := by
  cases l <;> simp only [setSsLine, readCrLocal_eq, writeSelect_eq] at h
  case s1 => obtain ⟨-, h⟩ := checkReady_next h; cases h; constructor <;> simp
  all_goals first
    | (cases h; constructor <;> simp)
    | (split at h <;> cases h <;> constructor <;> simp)

theorem setSsLine_effect {l : SetSsLine} {s t : State} (h : setSsLine l s = .next t) : LineEffect .host s t := by
  cases l <;> simp only [setSsLine, readCrLocal_eq, writeSelect_eq] at h
  case s1 => obtain ⟨-, h⟩ := checkReady_next h; cases h; exact .quiet (by simp) (by simp) (by simp)
  case s4 => cases h; exact .engine (by simpa using .selected _) (by simp) (by simp)
  case s6 => cases h; exact .write .cr _ rfl (by simp) (by simp; rfl) (by simp)
  all_goals first
    | (cases h; exact .quiet (by simp) (by simp) (by simp))
    | (split at h <;> cases h <;> exact .quiet (by simp) (by simp) (by simp))

theorem getSsLine_frame {l : GetSsLine} {s t : State} (h : getSsLine l s = .next t) : LineFrame .host s t := by
  cases l <;> simp only [getSsLine] at h
  case g1 => obtain ⟨-, h⟩ := checkReady_next h; cases h; constructor <;> simp
  case g2 => cases h; constructor <;> simp

theorem getSsLine_effect {l : GetSsLine} {s t : State} (h : getSsLine l s = .next t) : LineEffect .host s t := by
  cases l <;> simp only [getSsLine] at h
  case g1 => obtain ⟨-, h⟩ := checkReady_next h; cases h; exact .quiet (by simp) (by simp) (by simp)
  case g2 => cases h; exact .quiet (by simp) (by simp) (by simp)

theorem polledLine_frame {l : PolledLine} {s t : State} (h : polledLine l s = .next t) : LineFrame .host s t := by
  cases l <;> simp only [polledLine, readCrLocal_eq, readSrLocal_eq, writeSelect_eq, regWrite_er] at h
  case p1 => obtain ⟨-, h⟩ := checkReady_next h; cases h; constructor <;> simp
  case p14 | p15 | p18 | p20 => exact callSub_frame h
  all_goals first
    | (cases h; constructor <;> simp)
    | (split at h <;> cases h <;> constructor <;> simp)

theorem polledLine_effect {l : PolledLine} {s t : State} (h : polledLine l s = .next t) : LineEffect .host s t := by
  cases l <;> simp only [polledLine, readCrLocal_eq, readSrLocal_eq, writeSelect_eq, regWrite_er] at h
  case p1 => obtain ⟨-, h⟩ := checkReady_next h; cases h; exact .quiet (by simp) (by simp) (by simp)
  case p6 => cases h; exact .engine (by simpa using .busy true) (by simp) (by simp)
  case p7 => cases h; exact .engine (by simpa using .buffers) (by simp) (by simp)
  case p8 => cases h; exact .engine (by simpa using .counters) (by simp) (by simp)
  case p11 => cases h; exact .write .cr _ rfl (by simp) (by simp; rfl) (by simp)
  case p12 => cases h; exact .write .er _ rfl (by simp) (by simp; rfl) (by simp)
  case p14 | p15 | p18 | p20 => exact callSub_quiet (by simp) h
  case p21 => cases h; exact .engine (by simpa using .busy false) (by simp) (by simp)
  case p22 => cases h; exact .write .er _ rfl (by simp) (by simp; rfl) (by simp)
  all_goals first
    | (cases h; exact .quiet (by simp) (by simp) (by simp))
    | (split at h <;> cases h <;> exact .quiet (by simp) (by simp) (by simp))

theorem transferLine_frame {l : TransferLine} {s t : State} (h : transferLine l s = .next t) : LineFrame .host s t := by
  cases l <;> simp only [transferLine, readCrLocal_eq, writeSelect_eq, regWrite_er, regWrite_sr, regWrite_ier] at h
  case t1 => obtain ⟨-, h⟩ := checkReady_next h; cases h; constructor <;> simp
  case t13 | t16 => exact callSub_frame h
  all_goals first
    | (cases h; constructor <;> simp)
    | (split at h <;> cases h <;> constructor <;> simp)

theorem transferLine_effect {l : TransferLine} {s t : State} (h : transferLine l s = .next t) :
    LineEffect .host s t := by
  cases l <;> simp only [transferLine, readCrLocal_eq, writeSelect_eq, regWrite_er, regWrite_sr, regWrite_ier] at h
  case t1 => obtain ⟨-, h⟩ := checkReady_next h; cases h; exact .quiet (by simp) (by simp) (by simp)
  case t6 => cases h; exact .engine (by simpa using .busy true) (by simp) (by simp)
  case t7 => cases h; exact .engine (by simpa using .buffers) (by simp) (by simp)
  case t8 =>
    cases h
    refine .engine ?_ (by simp) (by simp)
    simp only [goHost_engine, installTransferCounters]
    split
    · simpa using .counters
    · simpa using .countersAndTotal
  case t11 => cases h; exact .write .cr _ rfl (by simp) (by simp; rfl) (by simp)
  case t12 => cases h; exact .write .er _ rfl (by simp) (by simp; rfl) (by simp)
  case t13 | t16 => exact callSub_quiet (by simp) h
  case t14 => cases h; exact .write .sr _ rfl (by simp) (by simp; rfl) (by simp)
  case t15 => cases h; exact .write .ier _ rfl (by simp) (by simp; rfl) (by simp)
  all_goals first
    | (cases h; exact .quiet (by simp) (by simp) (by simp))
    | (split at h <;> cases h <;> exact .quiet (by simp) (by simp) (by simp))

theorem abortLine_frame {l : AbortLine} {s t : State} (h : abortLine l s = .next t) : LineFrame .host s t := by
  cases l <;> simp only [abortLine] at h
  case a1 => obtain ⟨-, h⟩ := checkReady_next h; cases h; constructor <;> simp
  case a2 => exact callSub_frame h
  case a10 => cases h; constructor <;> simp

theorem abortLine_effect {l : AbortLine} {s t : State} (h : abortLine l s = .next t) : LineEffect .host s t := by
  cases l <;> simp only [abortLine] at h
  case a1 => obtain ⟨-, h⟩ := checkReady_next h; cases h; exact .quiet (by simp) (by simp) (by simp)
  case a2 => exact callSub_abort h
  case a10 => cases h; exact .quiet (by simp) (by simp) (by simp)

theorem resetLine_frame {l : ResetLine} {s t : State} (h : resetLine l s = .next t) : LineFrame .host s t := by
  cases l <;> simp only [resetLine, regWrite_cr] at h
  case x1 => obtain ⟨-, h⟩ := checkReady_next h; cases h; constructor <;> simp
  case x2 => exact callSub_frame h
  all_goals (cases h; constructor <;> simp)

theorem resetLine_effect {l : ResetLine} {s t : State} (h : resetLine l s = .next t) : LineEffect .host s t := by
  cases l <;> simp only [resetLine, regWrite_cr] at h
  case x1 => obtain ⟨-, h⟩ := checkReady_next h; cases h; exact .quiet (by simp) (by simp) (by simp)
  case x2 => exact callSub_abort h
  case x3 => cases h; exact .write .cr _ rfl (by simp) (by simp; rfl) (by simp)
  case x4 => cases h; exact .quiet (by simp) (by simp) (by simp)

theorem configureLine_frame {l : ConfigureLine} {s t : State} (h : configureLine l s = .next t) :
    LineFrame .host s t := by
  cases l <;> simp only [configureLine, readCrLocal_eq, regWrite_cr] at h
  case n1 => obtain ⟨-, h⟩ := checkReady_next h; cases h; constructor <;> simp
  all_goals first
    | (cases h; constructor <;> simp)
    | (split at h <;> cases h <;> constructor <;> simp)

theorem configureLine_effect {l : ConfigureLine} {s t : State} (h : configureLine l s = .next t) :
    LineEffect .host s t := by
  cases l <;> simp only [configureLine, readCrLocal_eq, regWrite_cr] at h
  case n1 => obtain ⟨-, h⟩ := checkReady_next h; cases h; exact .quiet (by simp) (by simp) (by simp)
  case n4 => cases h; exact .write .cr _ rfl (by simp) (by simp; rfl) (by simp)
  all_goals first
    | (cases h; exact .quiet (by simp) (by simp) (by simp))
    | (split at h <;> cases h <;> exact .quiet (by simp) (by simp) (by simp))

/-! ### The lines of the Handler -/

theorem handlerLine_frame {l : HandlerLine} {s t : State} (h : handlerLine l s = .next t) : LineFrame .handler s t := by
  cases l <;> simp only [handlerLine, readSrLocal_eq, regWrite_sr, regWrite_idr, regWrite_ier, regWrite_er] at h
  case h6 | h10 | h11 | h14 | h19 | h23 | h28 => exact callSub_frame h
  case h5 | h9 | h21 | h26 => obtain ⟨-, h⟩ := diff_next h; cases h; constructor <;> simp
  case h7 | h17 | h24 | h29 => obtain ⟨_, -, h⟩ := callback_next h; cases h; constructor <;> simp
  all_goals first
    | (cases h; constructor <;> simp)
    | (split at h <;> cases h <;> constructor <;> simp)

theorem handlerLine_effect {l : HandlerLine} {s t : State} (h : handlerLine l s = .next t) :
    LineEffect .handler s t := by
  cases l <;> simp only [handlerLine, readSrLocal_eq, regWrite_sr, regWrite_idr, regWrite_ier, regWrite_er] at h
  case h2 => cases h; exact .write .sr _ rfl (by simp) (by simp; rfl) (by simp)
  case h3 | h13 => cases h; exact .write .idr _ rfl (by simp) (by simp; rfl) (by simp)
  case h18 => cases h; exact .write .ier _ rfl (by simp) (by simp; rfl) (by simp)
  case h16 => cases h; exact .write .er _ rfl (by simp) (by simp; rfl) (by simp)
  case h15 | h22 | h27 => cases h; exact .engine (by simpa using .busy false) (by simp) (by simp)
  case h6 => exact callSub_abort h
  case h10 | h11 | h14 | h19 | h23 | h28 => exact callSub_quiet (by simp) h
  case h5 | h9 | h21 | h26 => obtain ⟨-, h⟩ := diff_next h; cases h; exact .quiet (by simp) (by simp) (by simp)
  case h7 | h17 | h24 | h29 =>
    obtain ⟨_, -, h⟩ := callback_next h; cases h; exact .quiet (by simp) (by simp) (by simp)
  all_goals first
    | (cases h; exact .quiet (by simp) (by simp) (by simp))
    | (split at h <;> cases h <;> exact .quiet (by simp) (by simp) (by simp))

/-! ### Any line -/

theorem LineFrame.refl (a : Agent) (s : State) : LineFrame a s s :=
  ⟨rfl, rfl, rfl, List.prefix_rfl, by cases a <;> simp⟩

/-- Every line keeps the parameters, the schedule, the stream and the other agent, and extends the trace. -/
theorem lineStep_frame {a : Agent} {s t : State} (h : lineStep a s = .next t) : LineFrame a s t := by
  cases a
  · simp only [lineStep, hostStep] at h
    split at h
    · cases h; exact LineFrame.refl _ _
    · next l _ =>
      cases l <;> simp only [hostLine] at h
      · exact initLine_frame h
      · exact setStatusHandlerLine_frame h
      · exact setSsLine_frame h
      · exact getSsLine_frame h
      · exact polledLine_frame h
      · exact transferLine_frame h
      · exact abortLine_frame h
      · exact resetLine_frame h
      · exact configureLine_frame h
    · exact subLine_frame h
  · simp only [lineStep, handlerStep] at h
    split at h
    · exact handlerLine_frame h
    · exact subLine_frame h

/-- Every line has one of the five effects on the engine, the register block and the memory. -/
theorem lineStep_effect {a : Agent} {s t : State} (h : lineStep a s = .next t) : LineEffect a s t := by
  cases a
  · simp only [lineStep, hostStep] at h
    split at h
    · cases h; exact .quiet rfl rfl rfl
    · next l hp =>
      cases l <;> simp only [hostLine] at h
      · exact initLine_effect hp h
      · exact setStatusHandlerLine_effect hp h
      · exact setSsLine_effect h
      · exact getSsLine_effect h
      · exact polledLine_effect h
      · exact transferLine_effect h
      · exact abortLine_effect h
      · exact resetLine_effect h
      · exact configureLine_effect h
    · next c q hp => exact subLine_effect h fun hq => ⟨c, hq ▸ hp⟩
  · simp only [lineStep, handlerStep] at h
    split at h
    · exact handlerLine_effect h
    · next c q hp => exact subLine_effect h fun hq => ⟨c, hq ▸ hp⟩

end Sys2Proof.Machine
end

