-- ==== Sys2Proof/Laws/PerInstr.lean ====
section
/-! SUPPORT. The statements made per instruction: how many words an instruction's encoding has (R125). -/

namespace Sys2Proof.Laws.EncodeLength

/-- R125: the encoding is the command word and `NARGS` argument words. -/
def Statement (i : Instr) : Prop := (encode i).length = 1 + i.command.nargs

theorem init (base : Word) : Statement (.init base) := rfl
theorem setStatusHandler (handler ctx : Word) : Statement (.setStatusHandler handler ctx) := rfl
theorem setSs (idx : BitVec 8) : Statement (.setSs idx) := rfl
theorem getSs : Statement .getSs := rfl
theorem polledTransfer (txv rxv : Bool) (send recv count : Word) : Statement (.polledTransfer txv rxv send recv count) := rfl
theorem transfer (txv rxv : Bool) (send recv count : Word) : Statement (.transfer txv rxv send recv count) := rfl
theorem abort : Statement .abort := rfl
theorem reset : Statement .reset := rfl
theorem configure (opts : BitVec 3) : Statement (.configure opts) := rfl
theorem irq : Statement .irq := rfl

end Sys2Proof.Laws.EncodeLength
end

