-- ==== Sys2Proof/Laws/Steps.lean ====
section
/-! SUPPORT. What a run of lines, the issue of a command, a handler start and a step of the machine can do, each said once;
and the induction over them packaged: a predicate that is closed under lines, issues, draws and the other agents' moves is
kept by every step (`Closed.step`). -/

namespace Sys2Proof.Machine

/-! ### Runs of lines -/

theorem runAhead_zero (a : Agent) (s : State) : runAhead a 0 s = .next s := rfl

theorem runAhead_stop {a : Agent} {s : State} (h : running a s = false ∨ otherEnabled s = true) (n : Nat) :
    runAhead a n s = .next s := by
  cases n with
  | zero => rfl
  | succ n => rcases h with h | h <;> simp [runAhead, h]

theorem runAhead_line {a : Agent} {s s' : State} (hr : running a s = true) (ho : otherEnabled s = false)
    (hl : lineStep a s = .next s') (n : Nat) : runAhead a (n + 1) s = runAhead a n s' := by
  simp [runAhead, hr, ho, hl]

theorem runLines_line {a : Agent} {s s' : State} (hr : running a s = true) (hl : lineStep a s = .next s') (n : Nat) :
    runLines a (n + 1) s = runLines a n s' := by
  simp [runLines, hr, hl]

/-- A run of lines followed by another is one run. -/
theorem runLines_add {a : Agent} {m n : Nat} {s s' : State} (h : runLines a m s = .next s') :
    runLines a (m + n) s = runLines a n s' := by
  induction m generalizing s with
  | zero => cases h; rw [Nat.zero_add]
  | succ m ih =>
    rw [Nat.add_right_comm]
    rcases hr : running a s with _ | _
    · simp only [runLines, hr, Bool.false_eq_true, if_false] at h ⊢
      cases h
      cases n with
      | zero => rfl
      | succ n => simp [runLines, hr]
    · rcases hl : lineStep a s with s1 | f | r
      · rw [runLines_line hr hl] at h ⊢
        exact ih h
      · simp [runLines, hr, hl] at h
      · simp [runLines, hr, hl] at h

/-- What every line of an agent keeps, a run of its lines keeps. -/
theorem runAhead_keeps {P : State → Prop} {a : Agent}
    (hP : ∀ s t, P s → running a s = true → lineStep a s = .next t → P t) {n : Nat} {s t : State}
    (hs : P s) (h : runAhead a n s = .next t) : P t := by
  induction n generalizing s with
  | zero => cases h; exact hs
  | succ n ih =>
    simp only [runAhead] at h
    split at h
    · next hr =>
      split at h
      · next s' hl => exact ih (hP s s' hs (by simp at hr; exact hr.1) hl) h
      · cases h
      · cases h
    · cases h; exact hs

theorem runLines_keeps {P : State → Prop} {a : Agent}
    (hP : ∀ s t, P s → running a s = true → lineStep a s = .next t → P t) {n : Nat} {s t : State}
    (hs : P s) (h : runLines a n s = .next t) : P t := by
  induction n generalizing s with
  | zero => cases h; exact hs
  | succ n ih =>
    simp only [runLines] at h
    split at h
    · next hr =>
      split at h
      · next s' hl => exact ih (hP s s' hs hr hl) h
      · cases h
      · cases h
    · cases h; exact hs

/-! ### Commands and handler starts -/

/-- If a command goes on, the Host was free, its first line ran, and lines followed. -/
theorem issue_next {o : HostOps} {l : HostLine} {s t : State} (h : issue o l s = .next t) :
    HostFree s ∧ ∃ s', hostStep (started o l s) = .next s' ∧ runAhead .host (aheadBound s) s' = .next t := by
  unfold issue at h
  split at h
  · cases h
  · split at h
    · cases h
    · next ha hi =>
      split at h
      · next s' hs' => exact ⟨⟨by simpa using hi, by simpa using ha⟩, s', hs', h⟩
      · cases h
      · cases h

theorem issue_free {o : HostOps} {l : HostLine} {s s' : State} (hf : HostFree s)
    (h : hostStep (started o l s) = .next s') : issue o l s = runAhead .host (aheadBound s) s' := by
  simp [issue, hf.1, hf.2, h]

theorem issueTransfer_next {o : HostOps} {l : HostLine} {s t : State} (h : issueTransfer o l s = .next t) :
    inRegisterBlock s.engine o = false ∧ issue o l s = .next t := by
  unfold issueTransfer at h
  split at h
  · cases h
  · next hb => exact ⟨by simpa using hb, h⟩

/-- If a handler start goes on, it was not enabled and nothing happened, or the Handler was entered and lines followed. -/
theorem startHandler_next {s t : State} (h : startHandler s = .next t) :
    (startEnabled s = false ∧ t = s) ∨
      (startEnabled s = true ∧ runAhead .handler (aheadBound s) (trapEntry s) = .next t) := by
  unfold startHandler at h
  split at h
  · next hs => exact .inr ⟨hs, h⟩
  · next hs => cases h; exact .inl ⟨by simpa using hs, rfl⟩

/-- Every Host command's meaning issues its operands at its first line. -/
theorem exec_next {i : Instr} {s t : State} (h : exec i s = .next t) :
    (i = .irq ∧ startHandler s = .next t) ∨ ∃ l, firstLine i = some l ∧ issue (operands i) l s = .next t := by
  cases i
  case irq => exact .inl ⟨rfl, h⟩
  case polledTransfer => exact .inr ⟨_, rfl, (issueTransfer_next h).2⟩
  case transfer => exact .inr ⟨_, rfl, (issueTransfer_next h).2⟩
  all_goals exact .inr ⟨_, rfl, h⟩

/-! ### Steps -/

/-- What one step of the machine can be: nothing (an exhausted stream), one line of a sequencer, a command taken from the
stream, a handler start, or a step of the Device or the Far end. -/
inductive StepCase (s t : State) : Prop where
  | rest (ht : t = s)
  | line (a : Agent) (hr : running a s = true) (h : lineStep a s = .next t)
  | command (i : Instr) (rest : List Word) (hd : decode s.stream = .ok i rest) (hi : i ≠ .irq)
      (h : exec i { s with stream := rest } = .next t)
  | start (h : startHandler s = .next t)
  | master (b : Byte) (he : masterEnabled s = true) (ht : t = masterExchange b s)
  | slave (idle master : Byte) (he : slaveEnabled s = true) (ht : t = slaveExchange idle master s)
  | fault (he : modeFaultEnabled s = true) (ht : t = modeFault s)

theorem fetch_next {s t : State} (h : fetch s = .next t) :
    t = s ∨ ∃ i rest, decode s.stream = .ok i rest ∧ i ≠ .irq ∧ exec i { s with stream := rest } = .next t := by
  unfold fetch at h
  split at h
  · cases h; exact .inl rfl
  · split at h
    · cases h
    · cases h
    · cases h
    · next i rest hi hd => exact .inr ⟨i, rest, hd, hi, h⟩

theorem sequencerStep_next {s t : State} (h : sequencerStep s = .next t) : StepCase s t := by
  unfold sequencerStep at h
  split at h
  · next ha => exact .line .handler ha h
  · split at h
    · rcases fetch_next h with rfl | ⟨i, rest, hd, hi, h⟩
      · exact .rest rfl
      · exact .command i rest hd hi h
    · next l hl => exact .line .host (by simp [running, hl]) h
    · next c q hl => exact .line .host (by simp [running, hl]) h

theorem takeMove_next {m : Move} {s t : State} (h : takeMove m s = .next t) : StepCase s t := by
  cases m <;> simp only [takeMove] at h
  case sequencer => exact sequencerStep_next h
  all_goals
    split at h
    · next he =>
      first
        | (cases h; first | exact .master _ he rfl | exact .slave _ _ he rfl | exact .fault he rfl)
        | exact .start h
    · exact sequencerStep_next h

/-- Every step is one of the cases, of the state itself or of the state after a draw. -/
theorem step_cases {s t : State} (h : step s = .next t) : StepCase s t ∨ StepCase (afterDraw s) t := by
  simp only [step, machineStep] at h
  split at h
  · exact .inr (takeMove_next h)
  · exact .inl (sequencerStep_next h)

/-- A predicate that every kind of step keeps. -/
structure Closed (P : State → Prop) : Prop where
  draw : ∀ s, P s → P (afterDraw s)
  take : ∀ s rest, P s → P { s with stream := rest }
  issued : ∀ i l s, firstLine i = some l → HostFree s → P s → P (started (operands i) l s)
  entry : ∀ s, P s → startEnabled s = true → P (trapEntry s)
  line : ∀ a s t, P s → running a s = true → lineStep a s = .next t → P t
  master : ∀ b s, P s → masterEnabled s = true → P (masterExchange b s)
  slave : ∀ i m s, P s → slaveEnabled s = true → P (slaveExchange i m s)
  fault : ∀ s, P s → modeFaultEnabled s = true → P (modeFault s)

theorem Closed.issue {P : State → Prop} (hP : Closed P) {i : Instr} {l : HostLine} {s t : State}
    (hl : firstLine i = some l) (hs : P s) (h : issue (operands i) l s = .next t) : P t := by
  obtain ⟨hf, s', hs', h⟩ := issue_next h
  have hr : running .host (started (operands i) l s) = true := rfl
  exact runAhead_keeps (hP.line .host) (hP.line .host _ _ (hP.issued i l s hl hf hs) hr hs') h

theorem Closed.startHandler {P : State → Prop} (hP : Closed P) {s t : State} (hs : P s)
    (h : startHandler s = .next t) : P t := by
  rcases startHandler_next h with ⟨-, rfl⟩ | ⟨he, h⟩
  · exact hs
  · exact runAhead_keeps (hP.line .handler) (hP.entry s hs he) h

theorem Closed.exec {P : State → Prop} (hP : Closed P) {i : Instr} {s t : State} (hs : P s)
    (h : exec i s = .next t) : P t := by
  rcases exec_next h with ⟨-, h⟩ | ⟨l, hl, h⟩
  · exact hP.startHandler hs h
  · exact hP.issue hl hs h

theorem Closed.case {P : State → Prop} (hP : Closed P) {s t : State} (hs : P s) (h : StepCase s t) : P t := by
  cases h with
  | rest ht => exact ht ▸ hs
  | line a hr h => exact hP.line a s t hs hr h
  | command i rest hd hi h => exact hP.exec (hP.take s rest hs) h
  | start h => exact hP.startHandler hs h
  | master b he ht => exact ht ▸ hP.master b s hs he
  | slave i m he ht => exact ht ▸ hP.slave i m s hs he
  | fault he ht => exact ht ▸ hP.fault s hs he

/-- The induction, once: what every kind of step keeps, every step keeps. -/
theorem Closed.step {P : State → Prop} (hP : Closed P) {s t : State} (hs : P s) (h : step s = .next t) : P t := by
  rcases step_cases h with h | h
  · exact hP.case hs h
  · exact hP.case (hP.draw s hs) h

end Sys2Proof.Machine
end

