-- ==== Sys2Proof/Tests/Slice0.lean ====
section
/-! SUPPORT. The model's own tests. Expected values are from spec/95_test_vectors.md (named V-… in each docstring) and from the
encoding tables of spec/30_encoding.md. Each test is one decoding, one command or one line on a small state. -/

namespace Sys2Proof.Machine

/-! ### Small states -/

/-- The parameters of the vectors: `D = 4`, `L = 3`, the interrupt connected. -/
def vectorParams : Params := ⟨3, 2, .zero, true⟩

/-- The vectors' boot state `B0`. -/
def bootState : State :=
  { State.reset with params := vectorParams, engine := { Engine.reset with baseAddress := 0xE0006000#32, isReady := true } }

/-- The launch state with the vectors' parameters: not initialised. -/
def launchState : State := { State.reset with params := vectorParams }

/-- `B0` with another engine record or register block. -/
def withEngine (f : Engine → Engine) (s : State) : State := { s with engine := f s.engine }
def withDev (f : Dev → Dev) (s : State) : State := { s with dev := f s.dev }

/-- `B0` with a transfer in flight. -/
def busyState : State := withEngine (fun e => { e with isBusy := true, requestedBytes := 10#32, remainingBytes := 6#32 }) bootState

/-- `B0` in master mode, enabled, two bytes queued. -/
def masterState : State :=
  withDev (fun d => { d with cr := 0x00023801#32, en := true, txFifo := [0x11#8, 0x22#8] }) bootState

/-- A registered callback. -/
def withCallback (s : State) : State :=
  withEngine (fun e => { e with statusCallback := .registered 0x42#32, callbackContext := 0xC0FFEE00#32 }) s

/-- The Handler at its first line. -/
def inHandler (s : State) : State := { s with handlerActive := true }

/-- The state a result goes on to. -/
def nextOf : Result → Option State
  | .next s => some s
  | .fault _ => none
  | .refused _ => none

/-- Whether a result goes on. -/
def goesOn (r : Result) : Bool := (nextOf r).isSome

/-- The code of a fault (R147). -/
def codeOf : Result → Option Nat
  | .fault f => faultCode f
  | .next _ => none
  | .refused _ => none

/-- The refusal of a result. -/
def refusalOf : Result → Option Refusal
  | .refused r => some r
  | .next _ => none
  | .fault _ => none

/-! ### Ill-formed instructions are refused (R126) -/

theorem test_wf_polled_send : (Instr.polledTransfer false true 0x1000#32 0x2000#32 10#32).wellFormed = false := by decide
theorem test_wf_polled_recv : (Instr.polledTransfer true false 0x1000#32 0x2000#32 10#32).wellFormed = false := by decide
theorem test_wf_transfer_send : (Instr.transfer false true 0x1000#32 0x2000#32 10#32).wellFormed = false := by decide
theorem test_wf_transfer_recv : (Instr.transfer true false 0x1000#32 0x2000#32 10#32).wellFormed = false := by decide
theorem test_wf_absent_buffers : (Instr.transfer false false 0#32 0#32 10#32).wellFormed = true := by decide

/-! ### Decoding, from words written out by the tables of R122, R125 and R128 -/

/-- V-DEC-1. -/
theorem test_decode_init : decode [0x00000001#32, 0xE0006000#32] = .ok (.init 0xE0006000#32) [] := by decide
/-- V-E11's command. -/
theorem test_decode_setStatusHandler :
    decode [0x00000002#32, 0x42#32, 0x12345678#32] = .ok (.setStatusHandler 0x42#32 0x12345678#32) [] := by decide
/-- V-DEC-6. -/
theorem test_decode_setSs : decode [0x00000203#32] = .ok (.setSs 2#8) [] := by decide
/-- The word of V-E2. -/
theorem test_decode_getSs : decode [0x00000004#32, 7#32] = .ok .getSs [7#32] := by decide
/-- V-DEC-11. -/
theorem test_decode_polledTransfer :
    decode [0x00030005#32, 0x1000#32, 0x2000#32, 0xA#32] = .ok (.polledTransfer true true 0x1000#32 0x2000#32 0xA#32) [] := by
  decide
/-- The words of V-L1-3's interrupt form. -/
theorem test_decode_transfer :
    decode [0x00010006#32, 0x1000#32, 0#32, 10#32] = .ok (.transfer true false 0x1000#32 0#32 10#32) [] := by decide
/-- The word of V-L1-7. -/
theorem test_decode_abort : decode [0x00000007#32] = .ok .abort [] := by decide
/-- Row 8 of the command map. -/
theorem test_decode_reset : decode [0x00000008#32] = .ok .reset [] := by decide
/-- V-AR-13's word: only `MANUAL_CS`. -/
theorem test_decode_configure : decode [0x00000209#32] = .ok (.configure 2#3) [] := by decide
/-- V-DEC-15's word. -/
theorem test_decode_irq : decode [0x0000000A#32] = .ok .irq [] := by decide

/-- V-DEC-2, 3, 4, 5, 9, 10, 12. -/
theorem test_decode_illegal :
    decode [0x00000000#32] = .illegalCommand ∧ decode [0x0000000B#32] = .illegalCommand ∧
    decode [0x00040001#32, 0xE0006000#32] = .illegalCommand ∧ decode [0x00000101#32, 0xE0006000#32] = .illegalCommand ∧
    decode [0x00000809#32] = .illegalCommand ∧ decode [0x00010004#32] = .illegalCommand ∧
    decode [0x00010005#32, 0x1000#32, 0x2000#32, 0xA#32] = .illegalCommand := by decide

/-- V-DEC-14, 16. -/
theorem test_decode_truncated :
    decode [0x00030006#32, 0x1000#32, 0x2000#32] = .truncatedCommand ∧ decode [0x00000002#32, 0x42#32] = .truncatedCommand ∧
    decode [] = .truncatedCommand := by decide

/-- The bytes of V-DEC-1, little-endian (R121). -/
theorem test_decode_bytes :
    decodeBytes [0x01#8, 0#8, 0#8, 0#8, 0x00#8, 0x60#8, 0x00#8, 0xE0#8] = .ok (.init 0xE0006000#32) [] := by decide

/-- The numbering of spec/opcode_table.json: the second word's bits stand above the first's. -/
theorem test_decode_tableWord :
    decodeTableWord 32 0x00000001 = some (.init 0#32) ∧
    decodeTableWord 64 0xE000600000000001 = some (.init 0xE0006000#32) := by decide

/-- No command word belongs to two rows of the command map (R125). -/
theorem test_rows_disjoint :
    opcodeTable.Pairwise (fun r r' => (r.fixed ^^^ r'.fixed) &&& (r.mask &&& r'.mask) ≠ 0#32) := by decide

/-- The encoder, against V-L1-1's words. -/
theorem test_encode_polledTransfer :
    encode (.polledTransfer true true 0x1000#32 0x2000#32 10#32) = [0x00030005#32, 0x1000#32, 0x2000#32, 0xA#32] := by decide

/-! ### Fields and flags -/

/-- V-SS-1 to V-SS-4. -/
theorem test_enc_dec :
    [enc 0#32, enc 1#32, enc 2#32, enc 3#32, enc 15#32] = [0xE#4, 0xD#4, 0xB#4, 0x7#4, 0xF#4] ∧
    [dec 0xE#4, dec 0xD#4, dec 0xB#4, dec 0x7#4, dec 0xF#4] = [0#32, 1#32, 2#32, 3#32, 15#32] ∧
    [dec 0x0#4, dec 0x3#4, dec 0xC#4, dec 0x5#4] = [15#32, 15#32, 15#32, 15#32] := by decide

/-- V-FP-14. -/
theorem test_bufWraps :
    bufWraps 0xFFFFFFFC 4 = false ∧ bufWraps 0xFFFFFFFC 5 = true ∧ bufWraps 0xFFFFFFFF 2 = true := by decide

/-- V-RG-13. -/
theorem test_status :
    srValue vectorParams ({ Dev.reset with txFifo := [1#8, 2#8], rxFifo := [1#8, 2#8, 3#8, 4#8], modf := true }) = 0x32#32 := by
  decide

/-- V-RG-1, V-RG-2. -/
theorem test_write_sr :
    srValue vectorParams (writeReg .sr 0x7F#32 { Dev.reset with rxovr := true, modf := true, txuf := true, rxFifo := [1#8] })
      = 0x14#32 ∧
    (writeReg .sr 0x04#32 { Dev.reset with modf := true }).modf = true := by decide

/-- V-RG-3. -/
theorem test_write_mask :
    (writeReg .ier 0x47#32 Dev.reset).imr = 0x47#7 ∧
    (writeReg .idr 0x04#32 { Dev.reset with imr := 0x47#7 }).imr = 0x43#7 ∧
    (writeReg .ier 0xFFFFFFFF#32 { Dev.reset with imr := 0x43#7 }).imr = 0x7F#7 ∧
    (writeReg .idr 0x80#32 { Dev.reset with imr := 0x7F#7 }).imr = 0x7F#7 := by decide

/-- V-RG-4, V-RG-5. -/
theorem test_write_er :
    writeReg .er 0#32 { Dev.reset with en := true, startArmed := true } = Dev.reset ∧
    (writeReg .er 3#32 Dev.reset).en = true := by decide

/-- V-RG-6, V-RG-7. -/
theorem test_write_cr :
    writeReg .cr 0xFFFFFFFF#32 { Dev.reset with en := true } =
      { Dev.reset with en := true, cr := 0x0002FFFF#32, startArmed := true } ∧
    writeReg .cr 0x00010001#32 { Dev.reset with en := true } = { Dev.reset with en := true, cr := 1#32 } := by decide

/-- V-RG-8, V-RG-9, V-RG-12. -/
theorem test_access :
    (nextOf (regWrite Config.offTxd 0xABCD1234#32 bootState .next)).map (·.dev.txFifo) = some [0x34#8] ∧
    codeOf (regWrite Config.offTxd 0x55#32 (withDev (fun d => { d with txFifo := [1#8, 2#8, 3#8, 4#8] }) bootState) .next)
      = some 9 ∧
    refusalOf (regRead 0x18#32 bootState fun _ s => .next s) = some .unmappedOffset := by decide

/-- V-RG-10, V-RG-11. -/
theorem test_read :
    (readReg .rxd (withDev (fun d => { d with rxFifo := [0x5A#8] }) bootState)).1 = 0x5A#32 ∧
    (readReg .imr (withDev (fun d => { d with imr := 0x43#7 }) bootState)).1 = 0x43#32 := by decide

/-! ### Device steps -/

/-- V-DV-1. -/
theorem test_masterExchange :
    (masterExchange 0x11#8 masterState).dev = { masterState.dev with txFifo := [0x22#8], rxFifo := [0x11#8] } ∧
    (masterExchange 0x11#8 masterState).trace = [.xchg 0x11#8 0x11#8 (some 0xE#4)] := by decide

/-- V-DV-4. -/
theorem test_masterExchange_overrun :
    (masterExchange 0x44#8 (withDev (fun d => { d with txFifo := [0x44#8], rxFifo := [1#8, 2#8, 3#8, 4#8] }) masterState)).dev
      = { masterState.dev with txFifo := [], rxFifo := [1#8, 2#8, 3#8, 4#8], rxovr := true } := by decide

/-- V-DV-2, V-DV-6, V-DV-11. -/
theorem test_enabled :
    masterEnabled (withDev (fun d => { d with cr := 0x0002B801#32 }) masterState) = false ∧
    masterEnabled (withDev (fun d => { d with en := false }) masterState) = false ∧
    slaveEnabled (withDev (fun d => { d with cr := 0x00028000#32 }) masterState) = true := by decide

/-- V-DV-5. -/
theorem test_slaveExchange_underrun :
    (slaveExchange 0x99#8 0x71#8 (withDev (fun d => { d with cr := 0x00020000#32, txFifo := [] }) masterState)).dev
      = { masterState.dev with cr := 0x00020000#32, txFifo := [], txuf := true, rxFifo := [0x71#8] } := by decide

/-! ### The commands, one or two vectors each -/

/-- V-AR-7. -/
theorem test_init :
    (nextOf (exec (.init 0xE0006000#32) (withCallback bootState))).map
      (fun t => (t.engine.statusCallback, t.engine.callbackContext, t.engine.slaveSelect, t.dev.cr))
    = some (.stub, 0#32, 0xF#4, 0x00020000#32) := by decide

/-- V-AR-5, V-EX-4. -/
theorem test_init_badBase :
    codeOf (exec (.init 0xE0006002#32) launchState) = some 8 ∧ codeOf (exec (.init 0xE0006001#32) busyState) = some 8 := by
  decide

/-- V-AR-10, V-E11. -/
theorem test_setStatusHandler :
    (nextOf (exec (.setStatusHandler 0x43#32 7#32) busyState)).map (·.engine)
    = some { busyState.engine with statusCallback := .registered 0x43#32, callbackContext := 7#32 } := by decide

/-- V-AR-8, V-AR-9. -/
theorem test_setStatusHandler_faults :
    codeOf (exec (.setStatusHandler 0#32 5#32) bootState) = some 5 ∧
    codeOf (exec (.setStatusHandler 0x42#32 0#32) launchState) = some 1 := by decide

/-- V-SS-5. -/
theorem test_setSs :
    (nextOf (exec (.setSs 2#8) (withDev (fun d => { d with cr := 0x00020001#32 }) bootState))).map
      (fun t => (t.engine.slaveSelect, t.trace))
    = some (0xB#4, [.rdReg 0#32 0x00020001#32, .wrReg 0#32 0x00022C01#32, .ret .setSs (some 0#32)]) := by decide

/-- V-SS-7, V-SS-11, V-L1-5. -/
theorem test_setSs_stops :
    codeOf (exec (.setSs 3#8) bootState) = some 4 ∧ codeOf (exec (.setSs 5#8) busyState) = some 4 ∧
    (nextOf (exec (.setSs 1#8) busyState)).map (·.trace) = some [.ret .setSs (some 21#32)] := by decide

/-- V-E2, V-SS-13. -/
theorem test_getSs :
    (nextOf (exec .getSs (withEngine (fun e => { e with slaveSelect := 0xB#4 }) bootState))).map (·.trace)
      = some [.ret .getSs (some 2#32)] ∧
    (nextOf (exec .getSs bootState)).map (·.trace) = some [.ret .getSs (some 15#32)] := by decide

/-- V-FP-13: the chip-select apply of a polled start. -/
theorem test_polledTransfer :
    (nextOf (exec (.polledTransfer true true 0x1000#32 0x2000#32 10#32)
      (withEngine (fun e => { e with slaveSelect := 0xD#4 }) (withDev (fun d => { d with cr := 0x00024001#32 }) bootState)))).map
      (fun t => (t.dev.cr, t.dev.en, t.engine.requestedBytes)) = some (0x00027401#32, true, 10#32) := by decide

/-- V-PT-3, V-PT-4, V-PT-6. -/
theorem test_polledTransfer_faults :
    codeOf (exec (.polledTransfer true true 0x1000#32 0x2000#32 0#32) bootState) = some 3 ∧
    codeOf (exec (.polledTransfer true true 0xFFFFFFF8#32 0x2000#32 9#32) bootState) = some 7 ∧
    codeOf (exec (.polledTransfer false true 0#32 0x2000#32 0#32) busyState) = some 2 := by decide

/-- V-L1-4, V-EX-6. -/
theorem test_transfer :
    (nextOf (exec (.transfer true true 0x3000#32 0x4000#32 5#32) busyState)).map (fun t => (t.engine, t.trace))
      = some (busyState.engine, [.ret .transfer (some 21#32)]) ∧
    goesOn (exec (.transfer true true 0xE0005FF0#32 0x2000#32 0x10#32) bootState) = true := by decide

/-- V-EX-1, V-EX-2, V-EX-3, V-EX-5. -/
theorem test_transfer_stops :
    codeOf (exec (.transfer false false 0#32 0#32 0#32) launchState) = some 1 ∧
    codeOf (exec (.transfer false false 0#32 0#32 0#32) bootState) = some 2 ∧
    codeOf (exec (.transfer true false 0x1000#32 0#32 0#32) busyState) = some 3 ∧
    refusalOf (exec (.transfer true true 0xE00060F0#32 0x2000#32 0x20#32) bootState) = some .bufferInRegisterBlock := by decide

/-- V-AR-2. -/
theorem test_abort :
    (nextOf (exec .abort (withDev (fun d => { d with rxFifo := [1#8, 2#8, 3#8, 4#8] }) bootState))).map (·.trace)
    = some [.wrReg 0x14#32 0#32, .rdReg 4#32 0x34#32, .rdReg 0x20#32 1#32, .rdReg 4#32 0x14#32, .rdReg 0x20#32 2#32,
        .rdReg 4#32 0x14#32, .rdReg 0x20#32 3#32, .rdReg 4#32 0x14#32, .rdReg 0x20#32 4#32, .rdReg 4#32 0x04#32,
        .wrReg 4#32 2#32, .ret .abort none] := by decide

/-- V-AR-3 (with the interrupt not connected, so that nothing comes between the lines). -/
theorem test_abort_keeps_flags :
    (nextOf (exec .abort (withDev (fun d => { d with rxovr := true, txuf := true, imr := 0x47#7 })
      { bootState with params := { vectorParams with irqConnected := false } }))).map
      (fun t => (t.dev.rxovr, t.dev.txuf, t.dev.imr)) = some (true, true, 0x47#7) := by decide

/-- V-AR-4. -/
theorem test_reset :
    (nextOf (exec .reset (withDev (fun d => { d with cr := 0x0002F401#32 }) bootState))).map
      (fun t => (t.dev.cr, t.dev.startArmed)) = some (0x00020000#32, false) := by decide

/-- V-AR-11, V-AR-13. -/
theorem test_configure :
    (nextOf (exec (.configure 7#3) bootState)).map (·.dev.cr) = some 0x0002C001#32 ∧
    (nextOf (exec (.configure 2#3) (withDev (fun d => { d with cr := 0x00023801#32 }) bootState))).map (·.dev.cr)
      = some 0x00027800#32 := by decide

/-- V-DV-9. -/
theorem test_irq_entry :
    (nextOf (exec .irq (withDev (fun d => { d with modf := true, imr := 0x43#7 }) masterState))).map
      (fun t => (t.handlerActive, t.handlerPc, t.trace)) = some (true, .line .h1, [.ext .irq]) := by decide

/-- V-IT-6's last activation: a spurious completion (R237). -/
theorem test_irq_spurious :
    (nextOf (exec .irq (withDev (fun d => { d with imr := 0x47#7 }) (withCallback bootState)))).map
      (fun t => (t.dev.imr, t.trace.getLast?)) = some (0#7, some (.cb 0xC0FFEE00#32 0x42#32 .transferDone 0#32)) := by decide

/-! ### Witnesses: states and operands that meet the hypotheses of the statements in Certificates/Slice0/Obligations.lean -/

/-- `B0` can take a command that nothing comes between; so can a busy engine. -/
theorem test_free_bootState : HostFree bootState ∧ Undisturbed bootState ∧ BlockOk bootState := by
  unfold HostFree Undisturbed BlockOk; decide
theorem test_free_busyState : HostFree busyState ∧ Undisturbed busyState := by unfold HostFree Undisturbed; decide

/-- DecodeOfEncode. -/
theorem test_witness_decodeOfEncode :
    (Instr.polledTransfer true false 0x1000#32 0#32 6#32).wellFormed = true ∧ (Instr.init 0xE0006000#32).wellFormed = true := by
  decide

/-- EncodeOfDecode, DecodedWordMatchesOneRow: a stream with words left over. -/
theorem test_witness_decoded :
    decode [0x00030006#32, 0x1000#32, 0x2000#32, 10#32, 7#32] = .ok (.transfer true true 0x1000#32 0x2000#32 10#32) [7#32] := by
  decide

/-- IllegalEncodingsRefused: a word for each clause, at the ends of the ranges. -/
theorem test_witness_illegal :
    cwRsv 0x80000001#32 ≠ 0#14 ∧ cwOpc 0x00000000#32 = 0x00#8 ∧ 0x0B#8 ≤ cwOpc 0x0000000B#32 ∧ 0x0B#8 ≤ cwOpc 0x000000FF#32 ∧
    (cwOpc 0x00000101#32 ≠ 0x03#8 ∧ cwOpc 0x00000101#32 ≠ 0x09#8 ∧ cwArg8 0x00000101#32 ≠ 0#8) ∧
    (cwOpc 0x00000809#32 = 0x09#8 ∧ (cwArg8 0x00000809#32).extractLsb' 3 5 ≠ 0#5) ∧
    (cwOpc 0x00010004#32 ≠ 0x05#8 ∧ cwOpc 0x00010004#32 ≠ 0x06#8 ∧ cwTxv 0x00010004#32 = true) ∧
    (cwOpc 0x00000005#32 = 0x05#8 ∧ cwTxv 0x00000005#32 = false ∧ cwRxv 0x00000005#32 = false) ∧
    (commandOfOpc (cwOpc 0x00030006#32) = some .transfer ∧ cwRsv 0x00030006#32 = 0#14 ∧
      arg8Ok .transfer (cwArg8 0x00030006#32) = true ∧
      validBitsOk .transfer (cwTxv 0x00030006#32) (cwRxv 0x00030006#32) = true ∧
      [0x1000#32, 0x2000#32].length < Command.transfer.nargs) := by decide

/-- StepRunsDecodedCommand, both clauses. -/
theorem test_witness_stepRunsDecodedCommand :
    HostFree bootState ∧ decode [0x00000103#32] = .ok (.setSs 1#8) [] ∧ hostCommand (.setSs 1#8) = true ∧
    otherEnabled { bootState with stream := [0x00000103#32] } = false ∧
    otherEnabled { masterState with stream := [0x00000103#32], schedule := [.sequencer] } = true := by
  unfold HostFree; decide

/-- StepRefusesBadStream: a stream for each clause, with and without another agent that could step. -/
theorem test_witness_badStream :
    (otherEnabled { masterState with stream := [0x0000000A#32], schedule := [.sequencer] } = true ∧
      refusalOf (step { masterState with stream := [0x0000000A#32], schedule := [.sequencer] }) = some .irqFromHost) ∧
    otherEnabled { bootState with stream := [0x0000000A#32] } = false ∧ decode [0x0000000A#32] = .ok .irq [] ∧
    decode [0x0000000B#32] = .illegalCommand ∧ decode [0x00000001#32] = .truncatedCommand := by decide

/-- IrqEntersHandler: an interrupt pending on an enabled device. -/
theorem test_witness_start :
    startEnabled (withDev (fun d => { d with modf := true, imr := 0x43#7 }) masterState) = true ∧
    masterState.dev.en = true := by
  decide

/-- StepTakesDrawnMove: master and slave mode with a move drawn, each move enabled in one of them and not in another, and no
agent enabled; a drawn mode fault is the step in master mode and not in slave mode. -/
theorem test_witness_moves :
    let m := { masterState with schedule := [.modeFault] }
    let v := withDev (fun d => { d with cr := 0x00020000#32, modf := true, imr := 2#7 }) m
    otherEnabled m = true ∧ masterEnabled m = true ∧ slaveEnabled m = false ∧ modeFaultEnabled m = true ∧
    startEnabled m = false ∧
    otherEnabled v = true ∧ masterEnabled v = false ∧ slaveEnabled v = true ∧ modeFaultEnabled v = false ∧
    startEnabled v = true ∧ otherEnabled bootState = false ∧
    (nextOf (step m)).map (·.trace) = some [.ext .modeFault] ∧ (nextOf (step v)).map (·.trace) = some [] := by decide

/-- StepRunsOneLine, HostStandsWhileHandlerActive: each sequencer, with and without another agent that could step. -/
theorem test_witness_lines :
    otherEnabled (inHandler bootState) = false ∧ otherEnabled (inHandler masterState) = true ∧
    goesOn (step (inHandler bootState)) = true ∧
    otherEnabled { bootState with hostPc := .line (.abort .a10) } = false ∧
    otherEnabled { masterState with hostPc := .line (.abort .a10) } = true := by decide

/-- SetSsSelectsLine, SelectRoundTrip, GetSsReturnsCachedLine, ConfigureWritesOptions (idle), AbortNormalises,
ResetRestoresControl: `B0`, with the lowest, the highest and the deselecting index. -/
theorem test_witness_idle :
    bootState.engine.isReady = true ∧ bootState.engine.isBusy = false ∧
    validIndex bootState.params ((0#8).setWidth 32) = true ∧ validIndex bootState.params ((2#8).setWidth 32) = true ∧
    validIndex bootState.params ((15#8).setWidth 32) = true := by decide

/-- SetSsSelectsLine, ConfigureWritesOptions, PolledTransferStarts, TransferStarts: an idle engine whose device is still enabled
(R379), where the commands' lines write `CR`: SET_SS with V-SS-1's pattern for line 1, CONFIGURE clearing
`MSTREN`. -/
theorem test_witness_enabled_idle :
    masterState.engine.isReady = true ∧ masterState.engine.isBusy = false ∧ masterState.dev.en = true ∧
    validIndex masterState.params ((1#8).setWidth 32) = true ∧
    inRegisterBlock masterState.engine (transferOps true true 0x1000#32 0x2000#32 8#32) = false ∧
    (nextOf (commandLines (.setSs 1#8) 7 masterState)).map (·.dev.cr) = some 0x00023401#32 ∧
    (nextOf (commandLines (.configure 0#3) 5 masterState)).map (·.dev.cr) = some 0x00023800#32 ∧
    (nextOf (commandLines (.polledTransfer true false 0x1000#32 0#32 8#32) 11 masterState)).map (·.hostPc) =
      some (.line (.polled .p13)) := by decide

/-- SetSsWhileBusyReturnsBusy, ConfigureWritesOptions (busy), InitWhileBusyChangesNothing, GetSsReturnsCachedLine and
SetStatusHandlerRegistersPair: a busy engine, and one whose device is enabled. -/
theorem test_witness_busy :
    busyState.engine.isReady = true ∧ busyState.engine.isBusy = true ∧ (0xE0007000#32).toNat % 4 = 0 ∧
    validIndex busyState.params ((1#8).setWidth 32) = true ∧ (0x42#32 : Word) ≠ 0#32 ∧
    (withDev (fun d => { d with en := true }) busyState).engine.isReady = true := by decide

/-- V-AR-10, and R165 for GET_SS: both during a transfer, the device enabled. -/
theorem test_during_transfer :
    let s := withDev (fun d => { d with en := true }) busyState
    (nextOf (commandLines .getSs 2 s)).map (·.trace) = some [.ret .getSs (some Config.ssNone)] ∧
    (nextOf (commandLines (.setStatusHandler 0x43#32 7#32) 5 s)).map (·.engine) =
      some { s.engine with statusCallback := .registered 0x43#32, callbackContext := 7#32 } := by decide

/-- InitBindsInstance: the launch state. -/
theorem test_witness_init :
    HostFree launchState ∧ Undisturbed launchState ∧ BlockOk launchState ∧ launchState.engine.isBusy = false ∧
    (0xE0006000#32).toNat % 4 = 0 := by unfold HostFree Undisturbed BlockOk; decide

/-- PolledTransferStarts, TransferStarts, TransfersWhileBusyReturnBusy: buffers that end at 2^32 and at the register block. -/
theorem test_witness_transfers :
    bufWraps (0xFFFFFFF8#32).toNat (8#32).toNat = false ∧
    bufferWraps (bufferOperand true 0xE0005FF8#32) (8#32).toNat = false ∧
    inRegisterBlock bootState.engine (transferOps true true 0xFFFFFFF8#32 0xE0005FF8#32 8#32) = false ∧
    inRegisterBlock busyState.engine (transferOps true true 0xFFFFFFF8#32 0xE0005FF8#32 8#32) = false ∧
    bufferWraps (bufferOperand false 0#32) (8#32).toNat = false := by decide

/-- A buffer of ten bytes at 0x1000 or 0x2000 is clear of the register block of `B0`. -/
theorem test_bufferClear :
    BufferClear bootState.engine 0x1000 10 ∧ BufferClear bootState.engine 0x2000 10 := by
  unfold BufferClear; decide

/-- TransferLinesQueueOneBatch: ten bytes from 0x1000, with and without a receive buffer; manual start and manual chip-select
in master mode (`BufferClear` by `test_bufferClear`). -/
theorem test_witness_transferLines :
    let s := withDev (fun d => { d with cr := 0x0002F801#32 }) bootState
    (s.engine.isReady = true ∧ s.engine.isBusy = false ∧ (10#32 : Word) ≠ 0#32 ∧ crManstrtEn s.dev.cr = true ∧
      crMstren s.dev.cr = true ∧ crManualCs s.dev.cr = true ∧ s.engine = bootState.engine) ∧
    bufferWraps (some 0x2000) (10#32).toNat = false ∧ bufferWraps none (10#32).toNat = false ∧
    bootState.dev.txFifo.length + min (fifoDepth bootState.params) (10#32).toNat ≤ fifoDepth bootState.params := by decide

/-- IdleIrqReportsTransferDone. -/
theorem test_witness_idleIrq :
    let s := withDev (fun d => { d with imr := 0x47#7 }) (withCallback bootState)
    s.handlerActive = false ∧ s.params.irqConnected = true ∧ s.dev.en = false ∧ s.dev.txFifo = [] ∧
    s.dev.imr.getLsbD 2 = true ∧ s.dev.modf = false ∧ s.dev.rxovr = false ∧ s.dev.txuf = false ∧
    s.engine.requestedBytes = 0#32 ∧ s.engine.remainingBytes = 0#32 ∧ s.engine.statusCallback = .registered 0x42#32 := by decide

/-- RegisterCommandsFrame, LifecycleCommandsFrame, TransferStartsFrame, IrqFrame: each command goes on from `B0`. -/
theorem test_witness_frames :
    goesOn (exec (.setSs 1#8) bootState) = true ∧ goesOn (exec .getSs bootState) = true ∧
    goesOn (exec (.setStatusHandler 1#32 2#32) bootState) = true ∧ goesOn (exec (.configure 1#3) bootState) = true ∧
    goesOn (exec .abort bootState) = true ∧ goesOn (exec .reset bootState) = true ∧
    goesOn (exec (.init 0#32) bootState) = true ∧
    goesOn (exec (.polledTransfer true false 0x1000#32 0#32 6#32) bootState) = true ∧
    goesOn (exec (.transfer true true 0x1000#32 0x2000#32 6#32) bootState) = true ∧ goesOn (exec .irq bootState) = true := by
  decide

/-- IrqFrame: an activation that runs its drain. -/
theorem test_witness_irqFrame :
    goesOn (exec .irq (withDev (fun d => { d with imr := 4#7, rxFifo := [0x5A#8, 0xA5#8] })
      (withEngine (fun e => { e with requestedBytes := 2#32, recvBuffer := some 0x2000 }) (withCallback bootState)))) = true := by
  decide

/-- NotReadyFaultsBeforeInit. -/
theorem test_witness_notReady :
    HostFree launchState ∧ launchState.engine.isReady = false ∧ hostCommand .getSs = true ∧ Instr.getSs.command ≠ .init := by
  unfold HostFree; decide

/-- TransferPreconditionsInOrder: the operands of each clause, at the least wrapping count. -/
theorem test_witness_preconditions :
    inRegisterBlock busyState.engine (transferOps false true 0#32 0x2000#32 0#32) = false ∧
    inRegisterBlock busyState.engine (transferOps true true 0x1000#32 0x2000#32 0#32) = false ∧
    inRegisterBlock busyState.engine (transferOps true true 0xFFFFFFF8#32 0x2000#32 9#32) = false ∧
    bufWraps (0xFFFFFFF8#32).toNat (9#32).toNat = true ∧
    bufferWraps (bufferOperand true 0xFFFFFFFF#32) (2#32).toNat = true := by
  decide

/-- BadOperandsFault: the least index past the lines, the one below `SS_NONE`, and a misaligned base. -/
theorem test_witness_badOperands :
    validIndex bootState.params ((3#8).setWidth 32) = false ∧ validIndex bootState.params ((14#8).setWidth 32) = false ∧
    (0xE0006002#32).toNat % 4 ≠ 0 := by decide

/-- UnsupportedIssuesRefused: buffers that meet the block by one byte at each end, and an issue from a busy sequencer. -/
theorem test_witness_refusals :
    meetsBlock bootState.engine.baseAddress (0xE0005FFF#32).toNat (2#32).toNat = true ∧
    meetsBlock bootState.engine.baseAddress (0xE00060FF#32).toNat (1#32).toNat = true ∧
    (inHandler bootState).handlerActive = true ∧ hostCommand .abort = true ∧
    ({ bootState with hostPc := .line (.abort .a2) } : State).hostPc ≠ .idle := by decide

/-- FaultingLineHasNoEffect: `S2` with a bad index; `H29`, the last callback line, with none registered; `H5` and `H26` with
the least negative difference; the Host and the Handler at `D6` with `requestedBytes` at 0. -/
theorem test_witness_faultingLine :
    let low := withEngine (fun e => { e with remainingBytes := 1#32 }) bootState
    codeOf (lineStep .host { bootState with hostPc := .line (.setSs .s2), hostOps := setSsOps 5#8 }) = some 4 ∧
    bootState.engine.statusCallback = .stub ∧ low.engine.requestedBytes < low.engine.remainingBytes ∧
    codeOf (lineStep .handler { bootState with handlerPc := .line .h7 }) = some 6 ∧
    codeOf (lineStep .handler { bootState with handlerPc := .line .h29 }) = some 6 ∧
    codeOf (lineStep .handler { low with handlerPc := .line .h5 }) = some 10 ∧
    codeOf (lineStep .handler { low with handlerPc := .line .h26 }) = some 10 ∧
    bootState.engine.requestedBytes = 0#32 := by decide

theorem test_witness_underflow :
    AtSub .host .d6 { bootState with hostPc := .sub (.polled .p18) .d6 } ∧
    AtSub .handler .d6 { bootState with handlerPc := .sub .h10 .d6 } := ⟨⟨_, rfl⟩, ⟨_, rfl⟩⟩

/-- UnmappedOffsetNeverAccessed: the offset R96 names, and the first past the block's registers. -/
theorem test_witness_unmapped :
    0x18#32 ∉ [0x00#32, 0x04#32, 0x08#32, 0x0C#32, 0x10#32, 0x14#32, 0x1C#32, 0x20#32] ∧
    0x24#32 ∉ [0x00#32, 0x04#32, 0x08#32, 0x0C#32, 0x10#32, 0x14#32, 0x1C#32, 0x20#32] := by decide

/-- FifoRegisterAccess: TX below and at `D`, RX with a byte and empty. -/
theorem test_witness_fifos :
    [1#8, 2#8, 3#8].length < fifoDepth vectorParams ∧ [1#8, 2#8, 3#8, 4#8].length = fifoDepth vectorParams ∧
    (withDev (fun d => { d with rxFifo := [0x5A#8] }) bootState).dev.rxFifo = [0x5A#8] ∧ bootState.dev.rxFifo = [] := by
  decide

/-- ExchangeMovesOneByte, DeviceStepsFrame: a queued byte. -/
theorem test_witness_exchange : masterState.dev.txFifo = 0x11#8 :: [0x22#8] := by decide

/-- StatusRegisterAccess: a line that is high by one bit, and one whose pending bit is masked. -/
theorem test_irqLine :
    irqLine vectorParams { masterState.dev with txuf := true, imr := 0x40#7 } = true ∧
    irqLine vectorParams { masterState.dev with txuf := true, imr := 0x3F#7 } = false := by decide

/-- FillQueuesOneBatch: the Host at `P14` with a whole batch to queue, all hypotheses in one state. -/
theorem test_witness_fill :
    let s := withEngine (fun e => { e with sendBuffer := some 0x1000, remainingBytes := 10#32 })
      { bootState with hostPc := .line (.polled .p14) }
    Calls .host .fill s ∧ 4 = min (fifoDepth s.params) s.engine.remainingBytes.toNat ∧ s.engine.sendBuffer = some 0x1000 ∧
    BufferClear s.engine 0x1000 4 ∧ s.dev.txFifo.length + 4 ≤ fifoDepth s.params :=
  ⟨⟨_, rfl, rfl⟩, by decide, rfl, by unfold BufferClear; decide, by decide⟩

/-- FillQueuesOneBatch: the Handler at `H11` with nothing left to queue and a full TX FIFO, likewise. -/
theorem test_witness_fill_nothing :
    let s := withDev (fun d => { d with txFifo := [1#8, 2#8, 3#8, 4#8] })
      (withEngine (fun e => { e with sendBuffer := some 0x1000 }) { inHandler bootState with handlerPc := .line .h11 })
    Calls .handler .fill s ∧ 0 = min (fifoDepth s.params) s.engine.remainingBytes.toNat ∧ s.engine.sendBuffer = some 0x1000 ∧
    BufferClear s.engine 0x1000 0 ∧ s.dev.txFifo.length + 0 ≤ fifoDepth s.params :=
  ⟨⟨rfl, _, rfl, rfl⟩, by decide, rfl, by unfold BufferClear; decide, by decide⟩

/-- DrainRetiresBatch: the Host at `P18` with two bytes in the RX FIFO, to drain both and to drain one past them. -/
theorem test_witness_drain :
    let s := fun k => withDev (fun d => { d with rxFifo := [0x5A#8, 0xA5#8] })
      (withEngine (fun e => { e with requestedBytes := 3#32, recvBuffer := some 0x2000 })
        { bootState with hostPc := .line (.polled .p18), hostLoc := { Locals.fresh with k := k } })
    (Calls .host .drain (s 2#32) ∧ (locals .host (s 2#32)).k.toNat ≤ (s 2#32).engine.requestedBytes.toNat ∧
      BufferClear (s 2#32).engine 0x2000 2) ∧
    (Calls .host .drain (s 3#32) ∧ (locals .host (s 3#32)).k.toNat ≤ (s 3#32).engine.requestedBytes.toNat ∧
      BufferClear (s 3#32).engine 0x2000 3) ∧
    (Calls .handler .drain { inHandler bootState with handlerPc := .line .h10 } ∧
      (locals .handler { inHandler bootState with handlerPc := .line .h10 }).k.toNat ≤ bootState.engine.requestedBytes.toNat ∧
      bootState.engine.recvBuffer = none) :=
  ⟨⟨⟨_, rfl, rfl⟩, by decide, by unfold BufferClear; decide⟩, ⟨⟨_, rfl, rfl⟩, by decide, by unfold BufferClear; decide⟩,
    ⟨rfl, _, rfl, rfl⟩, by decide, rfl⟩

/-- ExchangesPairBytes, in master and in slave mode. -/
theorem test_witness_exchanges :
    [0x33#8, 0x44#8].length = masterState.dev.txFifo.length ∧ masterState.dev.rxFifo = [] ∧
    masterState.dev.txFifo.length ≤ fifoDepth masterState.params ∧
    (exchanges [0x33#8, 0x44#8] masterState).map (·.dev.rxFifo) = some [0x33#8, 0x44#8] ∧
    (exchanges [0x33#8, 0x44#8] (withDev (fun d => { d with cr := 0x00020000#32 }) masterState)).map (·.dev.rxFifo) =
      some [0x33#8, 0x44#8] := by decide

/-- PolledPassMovesOneBatch: the last, short pass, in slave mode (the hypotheses do not speak of the mode). -/
theorem test_witness_polledPass :
    let s := withDev (fun d => { d with cr := 0x00023800#32, en := true })
      (withEngine (fun e => { e with
        isBusy := true, sendBuffer := some 0x1008, recvBuffer := some 0x2008, requestedBytes := 2#32, remainingBytes := 2#32 })
        { bootState with hostPc := .line (.polled .p13) })
    s.hostPc = .line (.polled .p13) ∧ s.engine.sendBuffer = some 0x1008 ∧ s.engine.recvBuffer = some 0x2008 ∧
    s.dev.en = true ∧ s.dev.txFifo = [] ∧ s.dev.rxFifo = [] ∧
    s.engine.requestedBytes ≠ 0#32 ∧ s.engine.remainingBytes = s.engine.requestedBytes ∧
    crStored s.dev.cr = s.dev.cr ∧ [1#8, 2#8].length = min (fifoDepth s.params) s.engine.requestedBytes.toNat ∧
    BufferClear s.engine 0x1008 2 ∧ BufferClear s.engine 0x2008 2 :=
  ⟨rfl, rfl, rfl, rfl, rfl, rfl, by decide, by decide, by decide, by decide, by unfold BufferClear; decide,
    by unfold BufferClear; decide⟩

/-- PolledTransferCompletes: ten bytes, in manual chip-select mode, with and without a receive buffer (`test_bufferClear`,
`test_free_bootState`). -/
theorem test_witness_polledCompletes :
    let s := withDev (fun d => { d with cr := 0x00027801#32 }) bootState
    HostFree s ∧ Undisturbed s ∧ s.engine = bootState.engine ∧ (10#32 : Word) ≠ 0#32 ∧ crManualCs s.dev.cr = true ∧
    crStored s.dev.cr = s.dev.cr ∧ s.dev.txFifo = [] ∧ s.dev.rxFifo = [] ∧
    (List.replicate 10 0x5A#8).length = (10#32).toNat := by
  unfold HostFree Undisturbed; decide

/-- ModeFaultActivationAborts, LastBatchActivationCompletes, ErrorActivationsCleanUp (overrun, TXRDY not latched). -/
theorem test_witness_activations :
    let m := inHandler (withCallback (withEngine (fun e => { e with requestedBytes := 10#32, remainingBytes := 4#32 })
      (withDev (fun d => { d with modf := true }) masterState)))
    let l := inHandler (withCallback (withEngine (fun e => { e with requestedBytes := 2#32, recvBuffer := some 0x2000 })
      (withDev (fun d => { d with txFifo := [], rxFifo := [0x5A#8, 0xA5#8] }) masterState)))
    let o := inHandler (withCallback (withEngine (fun e => { e with requestedBytes := 10#32, remainingBytes := 4#32 })
      (withDev (fun d => { d with rxovr := true }) masterState)))
    (m.handlerActive = true ∧ m.handlerPc = .line .h1 ∧ m.dev.modf = true ∧ m.engine.statusCallback = .registered 0x42#32 ∧
      m.engine.remainingBytes ≤ m.engine.requestedBytes) ∧
    (l.handlerActive = true ∧ l.handlerPc = .line .h1 ∧ l.engine.statusCallback = .registered 0x42#32 ∧ l.dev.modf = false ∧
      l.dev.rxovr = false ∧ l.dev.txuf = false ∧ l.dev.txFifo = [] ∧ l.engine.remainingBytes = 0#32 ∧
      2 = batchInFlight l ∧ crStored l.dev.cr = l.dev.cr) ∧
    (o.handlerActive = true ∧ o.handlerPc = .line .h1 ∧ o.engine.statusCallback = .registered 0x42#32 ∧ o.dev.rxovr = true ∧
      o.dev.modf = false ∧ o.dev.txuf = false ∧ o.dev.txFifo ≠ [] ∧
      o.engine.remainingBytes ≤ o.engine.requestedBytes ∧ crStored o.dev.cr = o.dev.cr) := by decide

/-- StepKeepsMemoryCanonical, StepKeepsBlockLegal, StepKeepsEngineLegal, StepKeepsPositionsLegal, StepExtendsTrace,
OnlyInitBindsBase: `B0` meets every invariant, and a step from it that takes a command goes on. -/
theorem test_witness_invariants :
    MemoryOk bootState ∧ BlockOk bootState ∧ SelectOk bootState ∧ CallbackOk bootState ∧ BaseOk bootState ∧ SendOk bootState ∧
    PositionsOk bootState ∧ LocalsOk bootState ∧
    goesOn (step { bootState with stream := [0x00000001#32, 0xE0007000#32] }) = true := by
  unfold MemoryOk BlockOk SelectOk CallbackOk BaseOk SendOk PositionsOk LocalsOk; decide

/-- StepKeepsEngineLegal at its edges: busy with its send buffer, and at `P7` before it is installed; each line goes on. -/
theorem test_witness_sendOk :
    let s := withEngine (fun e => { e with sendBuffer := some 0x1004 }) busyState
    let p := { busyState with hostPc := .line (.polled .p7), hostOps := transferOps true false 0x1000#32 0#32 10#32 }
    (SendOk s ∧ PositionsOk s ∧ goesOn (step { s with stream := [0x00000004#32] }) = true) ∧
    (SendOk p ∧ PositionsOk p ∧ (nextOf (step p)).map (·.engine.sendBuffer) = some (some 0x1000)) := by
  unfold SendOk PositionsOk; decide

/-- MiddleBatchActivationRefills, ErrorActivationsCleanUp (underrun, TXRDY not latched). -/
theorem test_witness_middle_underrun :
    let m := inHandler (withEngine (fun e => { e with
        requestedBytes := 10#32, remainingBytes := 8#32, sendBuffer := some 0x1002, recvBuffer := some 0x2000 })
      (withDev (fun d => { d with txFifo := [], rxFifo := [0x5A#8, 0xA5#8] }) masterState))
    let u := inHandler (withCallback (withEngine (fun e => { e with requestedBytes := 10#32, remainingBytes := 4#32 })
      (withDev (fun d => { d with txuf := true, txFifo := [1#8] }) masterState)))
    (m.handlerActive = true ∧ m.handlerPc = .line .h1 ∧ m.dev.modf = false ∧ m.dev.rxovr = false ∧ m.dev.txuf = false ∧
      m.dev.txFifo = [] ∧ crStored m.dev.cr = m.dev.cr ∧ m.engine.sendBuffer = some 0x1002 ∧
      m.engine.remainingBytes ≤ m.engine.requestedBytes ∧ 2 = batchInFlight m ∧ m.engine.remainingBytes ≠ 0#32 ∧
      4 = min (fifoDepth m.params) m.engine.remainingBytes.toNat) ∧
    (BufferClear m.engine 0x1002 4 ∧ BufferClear m.engine 0x2000 2) ∧
    (u.handlerActive = true ∧ u.handlerPc = .line .h1 ∧ u.dev.txuf = true ∧ u.dev.modf = false ∧ u.dev.rxovr = false ∧
      u.dev.txFifo ≠ [] ∧ u.engine.statusCallback = .registered 0x42#32 ∧
      u.engine.remainingBytes ≤ u.engine.requestedBytes ∧ crStored u.dev.cr = u.dev.cr) :=
  ⟨by decide, by unfold BufferClear; decide, by decide⟩

/-- ErrorActivationsCleanUp: both flags latched without TXRDY, with the last batch pending, and with bytes left to queue. -/
theorem test_witness_error_clauses :
    let both := fun d : Dev => { d with rxovr := true, txuf := true }
    let f := inHandler (withCallback (withEngine (fun e => { e with requestedBytes := 10#32, remainingBytes := 10#32 })
      (withDev both masterState)))
    let l := inHandler (withCallback (withEngine (fun e => { e with requestedBytes := 2#32, recvBuffer := some 0x2000 })
      (withDev (fun d => { both d with txFifo := [], rxFifo := [0x5A#8, 0xA5#8] }) masterState)))
    let m := inHandler (withCallback (withEngine (fun e => { e with
        requestedBytes := 3#32, remainingBytes := 1#32, sendBuffer := some 0x1002, recvBuffer := some 0x2000 })
      (withDev (fun d => { both d with txFifo := [], rxFifo := [0x5A#8, 0xA5#8] }) masterState)))
    (f.handlerActive = true ∧ f.handlerPc = .line .h1 ∧ f.dev.modf = false ∧ f.dev.rxovr = true ∧ f.dev.txuf = true ∧
      f.engine.statusCallback = .registered 0x42#32 ∧ crStored f.dev.cr = f.dev.cr ∧ f.dev.txFifo ≠ [] ∧
      f.engine.remainingBytes ≤ f.engine.requestedBytes) ∧
    (l.handlerActive = true ∧ l.handlerPc = .line .h1 ∧ l.dev.modf = false ∧ l.dev.rxovr = true ∧ l.dev.txuf = true ∧
      l.engine.statusCallback = .registered 0x42#32 ∧ crStored l.dev.cr = l.dev.cr ∧ l.dev.txFifo = [] ∧
      l.engine.remainingBytes = 0#32 ∧ 2 = batchInFlight l) ∧
    (m.handlerActive = true ∧ m.handlerPc = .line .h1 ∧ m.dev.modf = false ∧ m.dev.rxovr = true ∧ m.dev.txuf = true ∧
      m.engine.statusCallback = .registered 0x42#32 ∧ crStored m.dev.cr = m.dev.cr ∧ m.dev.txFifo = [] ∧
      m.engine.sendBuffer = some 0x1002 ∧ m.engine.remainingBytes ≤ m.engine.requestedBytes ∧ 2 = batchInFlight m ∧ m.engine.remainingBytes ≠ 0#32 ∧
      1 = min (fifoDepth m.params) m.engine.remainingBytes.toNat) ∧
    (BufferClear l.engine 0x2000 2 ∧ BufferClear m.engine 0x1002 1 ∧ BufferClear m.engine 0x2000 2) :=
  ⟨by decide, by decide, by decide, by unfold BufferClear; decide, by unfold BufferClear; decide,
    by unfold BufferClear; decide⟩

/-- ErrorActivationsCleanUp, LastBatchActivationCompletes, MiddleBatchActivationRefills: the RX FIFO with a byte more than the
batch, as the underrun of V-IT-4 leaves it, and with a byte less; what a drain then makes of memory. -/
theorem test_witness_rx_beside_batch :
    let s := fun rx : List Byte => inHandler (withCallback (withEngine (fun e => { e with
        requestedBytes := 2#32, recvBuffer := some 0x2000 })
      (withDev (fun d => { d with cr := 0x00020000#32, txFifo := [], rxFifo := rx, txuf := true }) masterState)))
    (let v := s [1#8, 2#8, 3#8]
     v.handlerActive = true ∧ v.handlerPc = .line .h1 ∧ v.dev.modf = false ∧ v.dev.txuf = true ∧
      v.engine.statusCallback = .registered 0x42#32 ∧ crStored v.dev.cr = v.dev.cr ∧ v.dev.txFifo = [] ∧
      v.engine.remainingBytes = 0#32 ∧ 2 = batchInFlight v ∧ srValue v.params v.dev = 0x54#32 ∧ v.dev.rxFifo.drop 2 = [3#8] ∧
      drainedMemory v 2 [] = [(0x2000, 1#8), (0x2001, 2#8)]) ∧
    (2 = batchInFlight (s [1#8]) ∧ drainedMemory (s [1#8]) 2 [7#8] = [(0x2000, 1#8), (0x2001, 7#8)]) ∧
    BufferClear (s [1#8]).engine 0x2000 2 ∧ BufferClear (s [1#8, 2#8, 3#8]).engine 0x2000 2 :=
  ⟨by decide, by decide, by unfold BufferClear; decide, by unfold BufferClear; decide⟩

/-- R233: the order of the callbacks. -/
theorem test_errorCallbacks :
    errorCallbacks (withCallback (withDev (fun d => { d with rxovr := true, txuf := true }) bootState)) 0x42#32 7#32 =
      [.cb 0xC0FFEE00#32 0x42#32 .receiveOverrun 7#32, .cb 0xC0FFEE00#32 0x42#32 .transmitUnderrun 7#32] := by decide

/-- OnlyDrainWritesMemory: a canonical memory, and a store that ends at the top of the address space and removes an entry. -/
theorem test_witness_memory :
    let m : List Host.Cell := [(0x10, 1#8), (0xFFFFFFFE, 2#8)]
    Memory.wf m ∧ 0xFFFFFFFE + [0#8, 5#8].length ≤ Config.addressLimit ∧
    storeBytes m 0xFFFFFFFE [0#8, 5#8] = [(0x10, 1#8), (0xFFFFFFFF, 5#8)] := by decide

/-- OnlyDrainWritesMemory: the Host at `D4`. -/
theorem test_witness_store :
    (nextOf (lineStep .host { withEngine (fun e => { e with recvBuffer := some 0x2000 }) bootState with
      hostPc := .sub (.polled .p18) .d4, hostLoc := { Locals.fresh with b := 0x5A#8 } })).map (·.mem) = some [(0x2000, 0x5A#8)] := by
  decide

end Sys2Proof.Machine
end

section
/-! SUPPORT. Every step keeps the parameters (R10) and only extends the trace (R61). -/

namespace Sys2Proof.Machine

/-- The parameters stand and events were only added at the end of the trace (R10, R61). -/
structure ExtendsTrace (s t : State) : Prop where
  params : t.params = s.params
  trace : s.trace <+: t.trace

theorem ExtendsTrace.refl (s : State) : ExtendsTrace s s := ⟨rfl, List.prefix_rfl⟩

theorem ExtendsTrace.trans {s t u : State} (h₁ : ExtendsTrace s t) (h₂ : ExtendsTrace t u) : ExtendsTrace s u :=
  ⟨h₂.params.trans h₁.params, h₁.trace.trans h₂.trace⟩

theorem LineFrame.extendsTrace {a : Agent} {s t : State} (h : LineFrame a s t) : ExtendsTrace s t :=
  ⟨h.params, h.trace⟩

/-- A master exchange adds one event, or none where no byte is queued (R291). -/
theorem masterExchange_extendsTrace (b : Byte) (s : State) : ExtendsTrace s (masterExchange b s) := by
  refine ⟨masterExchange_params b s, ?_⟩
  unfold masterExchange
  split
  · exact List.prefix_rfl
  · exact List.prefix_append _ _

/-- A slave exchange adds one event (R292). -/
theorem slaveExchange_extendsTrace (i m : Byte) (s : State) : ExtendsTrace s (slaveExchange i m s) := by
  refine ⟨slaveExchange_params i m s, ?_⟩
  unfold slaveExchange
  split <;> exact List.prefix_append _ _

/-- Whatever state the run began in, every kind of step keeps that its trace is extended. -/
theorem closed_extendsTrace (s₀ : State) : Closed (ExtendsTrace s₀) where
  draw s h := h.trans ⟨afterDraw_params s, by simp⟩
  take _ _ h := h.trans ⟨rfl, List.prefix_rfl⟩
  issued _ _ _ _ _ h := h.trans ⟨rfl, List.prefix_rfl⟩
  entry _ h _ := h.trans ⟨rfl, List.prefix_append _ _⟩
  line _ _ _ h _ hl := h.trans (lineStep_frame hl).extendsTrace
  master b s h _ := h.trans (masterExchange_extendsTrace b s)
  slave i m s h _ := h.trans (slaveExchange_extendsTrace i m s)
  fault _ h _ := h.trans ⟨rfl, List.prefix_append _ _⟩

/-- Settles O57: being an extension of the state the step starts in is closed under every kind of step, so the induction over
steps (`Closed.step`) gives it of the step itself. -/
theorem stepExtendsTrace : Obligations.StepExtendsTrace := by
  unfold Obligations.StepExtendsTrace
  intro s t h
  obtain ⟨hparams, htrace⟩ := (closed_extendsTrace s).step (ExtendsTrace.refl s) h
  exact ⟨hparams, htrace⟩

end Sys2Proof.Machine
end
section
/-! SUPPORT. How one line moves the sequencer that runs it (R45 to R47, R180): inside its command or sub-sequence, back to the
line after the call, or out of the activation. -/

namespace Sys2Proof.Machine

/-! ### The claim of the engine -/

/-- No transfer was claimed and no send buffer was removed (R44). -/
structure KeepsClaim (s t : State) : Prop where
  busy : t.engine.isBusy = true → s.engine.isBusy = true
  send : t.engine.sendBuffer = none → s.engine.sendBuffer = none

theorem KeepsClaim.of_engine {s t : State} (h : t.engine = s.engine) : KeepsClaim s t := by
  constructor <;> simp [h]

/-! ### Lines of a sub-sequence -/

/-- What a line of a sub-sequence leaves alone beside its agent's position: both positions, the operands, whether the Handler
is active, and the claim. -/
structure SubKeeps (s t : State) : Prop where
  hostPc : t.hostPc = s.hostPc
  handlerPc : t.handlerPc = s.handlerPc
  hostOps : t.hostOps = s.hostOps
  handlerActive : t.handlerActive = s.handlerActive
  claim : KeepsClaim s t

/-- What one line of a sub-sequence does: it goes on at another line of the same sub-sequence, or returns (R180). -/
inductive SubMove (a : Agent) (q : SubLine) (s : State) : State → Prop where
  | inside (q' : SubLine) (hq : q'.sequence = q.sequence) (s' : State) (h : SubKeeps s s') : SubMove a q s (goSub a q' s')
  | back (s' : State) (h : SubKeeps s s') : SubMove a q s (returnToCaller a s')

theorem SubKeeps.refl (s : State) : SubKeeps s s := ⟨rfl, rfl, rfl, rfl, .of_engine rfl⟩

/-- A change of locals, trace, register block, memory or draw counter. -/
theorem SubKeeps.of_engine {s t : State} (hh : t.hostPc = s.hostPc) (hd : t.handlerPc = s.handlerPc)
    (ho : t.hostOps = s.hostOps) (ha : t.handlerActive = s.handlerActive) (he : t.engine = s.engine) : SubKeeps s t :=
  ⟨hh, hd, ho, ha, .of_engine he⟩

/-- A change of the engine that keeps the claim. -/
theorem SubKeeps.engine {s : State} {e : Engine} (hb : e.isBusy = true → s.engine.isBusy = true)
    (hs : e.sendBuffer = none → s.engine.sendBuffer = none) : SubKeeps s { s with engine := e } :=
  ⟨rfl, rfl, rfl, rfl, hb, hs⟩

theorem subLine_move {a : Agent} {q : SubLine} {s t : State} (h : subLine a q s = .next t) : SubMove a q s t := by
  cases q <;> simp only [subLine, fillF1, fillF2, fillF3, fillF4, fillF5, fillF6, fillF7, drainD1, drainD2, drainD3,
    drainD4, drainD5, drainD6, drainD7, startM1, startM2, startM3, deassertC1, deassertC2, deassertC3, abortA2, abortA3,
    abortA4, abortA5, abortA6, abortA7, abortA8, abortA9, regWrite_cr, regWrite_sr, regWrite_er, readCrLocal_eq,
    readSrLocal_eq] at h
  case f3 =>
    split at h
    · cases h
    · obtain ⟨-, -, h⟩ := memRead_next h
      cases h; exact .inside _ (by rfl) _ (.of_engine (by simp) (by simp) (by simp) (by simp) (by simp))
  case f4 =>
    rw [regWrite_txd] at h
    split at h <;> cases h
    exact .inside _ (by rfl) _ (.of_engine rfl rfl rfl rfl rfl)
  case d2 | a5 =>
    rcases hr : s.dev.rxFifo with _ | ⟨b, rest⟩
    · rw [regRead_rxd_nil hr] at h
      cases h; exact .inside _ (by rfl) _ (.of_engine (by simp) (by simp) (by simp) (by simp) (by simp))
    · rw [regRead_rxd_cons hr] at h
      cases h; exact .inside _ (by rfl) _ (.of_engine (by simp) (by simp) (by simp) (by simp) (by simp))
  case d4 =>
    split at h
    · cases h; exact .inside _ (by rfl) _ (.refl s)
    · obtain ⟨-, -, h⟩ := memWrite_next h
      cases h; exact .inside _ (by rfl) _ (.of_engine rfl rfl rfl rfl rfl)
  case f5 | d5 | a8 => cases h; exact .inside _ (by rfl) _ (.engine id (by simp))
  case f6 | d6 => split at h <;> cases h; exact .inside _ (by rfl) _ (.engine id id)
  case a9 => cases h; exact .back _ (.engine nofun id)
  case m3 | c3 => cases h; exact .back _ (.of_engine rfl rfl rfl rfl rfl)
  case f2 | d1 | m2 | c2 =>
    split at h <;> cases h
    · exact .back _ (.refl s)
    · exact .inside _ (by rfl) _ (.refl s)
  case d3 | a4 => split at h <;> cases h <;> exact .inside _ (by rfl) _ (.refl s)
  all_goals
    cases h; exact .inside _ (by rfl) _ (.of_engine (by simp) (by simp) (by simp) (by simp) (by simp))

/-- No line of a sub-sequence writes the operands, claims a transfer, or ends an activation. -/
theorem SubMove.keeps {a : Agent} {q : SubLine} {s t : State} (h : SubMove a q s t) :
    t.hostOps = s.hostOps ∧ t.handlerActive = s.handlerActive ∧ KeepsClaim s t := by
  cases h with
  | inside q' hq s' h =>
    exact ⟨by simp [h.hostOps], by simp [h.handlerActive], by simpa using h.claim.busy, by simpa using h.claim.send⟩
  | back s' h =>
    exact ⟨by simp [h.hostOps], by simp [h.handlerActive], by simpa using h.claim.busy, by simpa using h.claim.send⟩

/-- The Host inside a sub-sequence stays under the calling line, or goes on at the line after it. -/
theorem SubMove.host {c : HostLine} {q : SubLine} {s t : State} (h : SubMove .host q s t) (hp : s.hostPc = .sub c q) :
    (∃ q', q'.sequence = q.sequence ∧ t.hostPc = .sub c q') ∨ t.hostPc = .line (afterHostCall c) := by
  cases h with
  | inside q' hq s' h => exact .inl ⟨q', hq, goSub_hostPc_sub (h.hostPc.trans hp) q'⟩
  | back s' h => exact .inr (returnToCaller_hostPc_sub (h.hostPc.trans hp))

/-- The Handler inside a sub-sequence, likewise. -/
theorem SubMove.handler {c : HandlerLine} {q : SubLine} {s t : State} (h : SubMove .handler q s t)
    (hp : s.handlerPc = .sub c q) :
    (∃ q', q'.sequence = q.sequence ∧ t.handlerPc = .sub c q') ∨ t.handlerPc = .line (afterHandlerCall c) := by
  cases h with
  | inside q' hq s' h => exact .inl ⟨q', hq, goSub_handlerPc_sub (h.handlerPc.trans hp) q'⟩
  | back s' h => exact .inr (returnToCaller_handlerPc_sub (h.handlerPc.trans hp))

/-! ### Lines that call a sub-sequence -/

/-- The Host at a line that calls a sub-sequence goes into it, under that line, or past it. -/
theorem callSub_host {l : HostLine} {q : SubLine} {s t : State} (hp : s.hostPc = .line l)
    (h : callSub .host q s = .next t) :
    ((∃ q', q'.sequence = q.sequence ∧ t.hostPc = .sub l q') ∨ t.hostPc = .line (afterHostCall l)) ∧
      t.hostOps = s.hostOps ∧ KeepsClaim s t := by
  have hm := subLine_move (show subLine .host q (goSub .host q s) = .next t from h)
  obtain ⟨ho, -, hc⟩ := hm.keeps
  exact ⟨hm.host (goSub_hostPc_line hp q), by simpa using ho, by simpa using hc.busy, by simpa using hc.send⟩

/-- The Handler at such a line, likewise. -/
theorem callSub_handler {l : HandlerLine} {q : SubLine} {s t : State} (hp : s.handlerPc = .line l)
    (h : callSub .handler q s = .next t) :
    ((∃ q', q'.sequence = q.sequence ∧ t.handlerPc = .sub l q') ∨ t.handlerPc = .line (afterHandlerCall l)) ∧
      t.handlerActive = s.handlerActive ∧ KeepsClaim s t := by
  have hm := subLine_move (show subLine .handler q (goSub .handler q s) = .next t from h)
  obtain ⟨-, ha, hc⟩ := hm.keeps
  exact ⟨hm.handler (goSub_handlerPc_line hp q), by simpa using ha, by simpa using hc.busy, by simpa using hc.send⟩

end Sys2Proof.Machine
end

section
/-! SUPPORT. How one line of the Host or of the Handler moves its agent (R45 to R48): to another line of its command, into a
sub-sequence, or out of its activation; and which lines touch the claim of the engine (R44). -/

namespace Sys2Proof.Machine

/-! ### The Host -/

/-- The command a line belongs to. -/
def HostLine.command : HostLine → Command
  | .init _ => .init
  | .setStatusHandler _ => .setStatusHandler
  | .setSs _ => .setSs
  | .getSs _ => .getSs
  | .polled _ => .polledTransfer
  | .transfer _ => .transfer
  | .abort _ => .abort
  | .reset _ => .reset
  | .configure _ => .configure

/-- The command whose line the Host stands at, or whose line called the sub-sequence it is in. -/
def HostPc.command : HostPc → Option Command
  | .idle => none
  | .line l => some l.command
  | .sub c _ => some c.command

theorem afterHostCall_command (l : HostLine) : (afterHostCall l).command = l.command := by
  rcases l with l | l | l | l | l | l | l | l | l <;> cases l <;> rfl

/-- The lines that claim the engine, install the transfer's buffers, or remove them (R200, R220, R270). -/
def claimLines : List HostPc :=
  [.line (.polled .p6), .line (.polled .p7), .line (.transfer .t6), .line (.transfer .t7), .line (.init .i5)]

/-- Where one line leaves the Host: at a line of its command, inside a sub-sequence of its command, or idle with its operands
and locals cleared. -/
inductive HostControl (s t : State) : Prop where
  | goes (l : HostLine) (hc : some l.command = s.hostPc.command) (hp : t.hostPc = .line l) (ho : t.hostOps = s.hostOps)
  | inside (c : HostLine) (q : SubLine) (hc : some c.command = s.hostPc.command)
      (hq : hostPositionOk s.hostPc = true → hostCalls c = some q.sequence) (hp : t.hostPc = .sub c q)
      (ho : t.hostOps = s.hostOps)
  | returned (hp : t.hostPc = .idle) (ho : t.hostOps = HostOps.none) (hl : t.hostLoc = Locals.fresh)

/-- What one line of the Host does to the Host and to the claim of the engine. -/
structure HostMove (s t : State) : Prop where
  control : HostControl s t
  claim : s.hostPc ∉ claimLines → KeepsClaim s t

/-- A line that goes on in its command and leaves the engine alone. -/
theorem HostMove.goes {s t : State} {l l' : HostLine} (hs : s.hostPc = .line l) (hp : t.hostPc = .line l')
    (hc : l'.command = l.command) (ho : t.hostOps = s.hostOps) (he : t.engine = s.engine) : HostMove s t :=
  ⟨.goes l' (by rw [hs, HostPc.command, hc]) hp ho, fun _ => .of_engine he⟩

/-- A line that goes on in its command and writes the engine. -/
theorem HostMove.writes {s t : State} {l l' : HostLine} (hs : s.hostPc = .line l) (hp : t.hostPc = .line l')
    (hc : l'.command = l.command) (ho : t.hostOps = s.hostOps) (hk : s.hostPc ∉ claimLines → KeepsClaim s t) :
    HostMove s t :=
  ⟨.goes l' (by rw [hs, HostPc.command, hc]) hp ho, hk⟩

/-- A line that returns. -/
theorem HostMove.returned (c : Command) (v : Option Word) (s : State) : HostMove s (hostReturn c v s) :=
  ⟨.returned rfl rfl rfl, fun _ => .of_engine rfl⟩

/-- A line that calls a sub-sequence. -/
theorem HostMove.call {s t : State} {l : HostLine} {q : SubLine} (hs : s.hostPc = .line l)
    (hq : hostCalls l = some q.sequence) (h : callSub .host q s = .next t) : HostMove s t := by
  obtain ⟨hp, ho, hk⟩ := callSub_host hs h
  refine ⟨?_, fun _ => hk⟩
  rcases hp with ⟨q', hq', hp⟩ | hp
  · exact .inside l q' (by rw [hs]; rfl) (fun _ => by rw [hq, hq']) hp ho
  · exact .goes _ (by rw [hs, HostPc.command, afterHostCall_command]) hp ho

/-- A line inside a sub-sequence. -/
theorem HostMove.sub {s t : State} {c : HostLine} {q : SubLine} (hs : s.hostPc = .sub c q)
    (h : subLine .host q s = .next t) : HostMove s t := by
  obtain ⟨ho, -, hk⟩ := (subLine_move h).keeps
  refine ⟨?_, fun _ => hk⟩
  rcases (subLine_move h).host hs with ⟨q', hq', hp⟩ | hp
  · exact .inside c q' (by rw [hs]; rfl) (fun hok => by rw [hq']; simpa [hs, hostPositionOk] using hok) hp ho
  · exact .goes _ (by rw [hs, HostPc.command, afterHostCall_command]) hp ho

theorem initLine_move {l : InitLine} {s t : State} (hp : s.hostPc = .line (.init l)) (h : initLine l s = .next t) :
    HostMove s t := by
  cases l <;> simp only [initLine, regWrite_cr] at h
  case i1 => split at h <;> cases h; exact .goes hp rfl rfl rfl rfl
  case i2 =>
    split at h <;> cases h
    · exact .returned _ _ _
    · exact .goes hp rfl rfl rfl rfl
  case i3 | i4 | i6 | i7 => cases h; exact .writes hp rfl rfl rfl fun _ => ⟨id, id⟩
  case i5 => cases h; exact .writes hp rfl rfl rfl fun hn => absurd (by simp [hp, claimLines]) hn
  case i8 => exact .call hp rfl h
  case i9 => cases h; exact .goes hp rfl rfl rfl rfl
  case i10 => cases h; exact .returned _ _ _

theorem setStatusHandlerLine_move {l : SetStatusHandlerLine} {s t : State} (hp : s.hostPc = .line (.setStatusHandler l))
    (h : setStatusHandlerLine l s = .next t) : HostMove s t := by
  cases l <;> simp only [setStatusHandlerLine] at h
  case k1 => obtain ⟨-, h⟩ := checkReady_next h; cases h; exact .goes hp rfl rfl rfl rfl
  case k2 => split at h <;> cases h; exact .goes hp rfl rfl rfl rfl
  case k3 | k4 => cases h; exact .writes hp rfl rfl rfl fun _ => ⟨id, id⟩
  case k5 => cases h; exact .returned _ _ _

theorem setSsLine_move {l : SetSsLine} {s t : State} (hp : s.hostPc = .line (.setSs l))
    (h : setSsLine l s = .next t) : HostMove s t := by
  cases l <;> simp only [setSsLine, readCrLocal_eq, writeSelect_eq] at h
  case s1 => obtain ⟨-, h⟩ := checkReady_next h; cases h; exact .goes hp rfl rfl rfl rfl
  case s2 => split at h <;> cases h; exact .goes hp rfl rfl rfl rfl
  case s3 =>
    split at h <;> cases h
    · exact .returned _ _ _
    · exact .goes hp rfl rfl rfl rfl
  case s4 => cases h; exact .writes hp rfl rfl rfl fun _ => ⟨id, id⟩
  case s5 | s6 => cases h; exact .goes hp rfl rfl rfl rfl
  case s7 => cases h; exact .returned _ _ _

theorem getSsLine_move {l : GetSsLine} {s t : State} (hp : s.hostPc = .line (.getSs l))
    (h : getSsLine l s = .next t) : HostMove s t := by
  cases l <;> simp only [getSsLine] at h
  case g1 => obtain ⟨-, h⟩ := checkReady_next h; cases h; exact .goes hp rfl rfl rfl rfl
  case g2 => cases h; exact .returned _ _ _

theorem polledLine_move {l : PolledLine} {s t : State} (hp : s.hostPc = .line (.polled l))
    (h : polledLine l s = .next t) : HostMove s t := by
  cases l <;> simp only [polledLine, readCrLocal_eq, readSrLocal_eq, writeSelect_eq, regWrite_er] at h
  case p1 => obtain ⟨-, h⟩ := checkReady_next h; cases h; exact .goes hp rfl rfl rfl rfl
  case p2 | p3 | p4 => split at h <;> cases h; exact .goes hp rfl rfl rfl rfl
  case p5 =>
    split at h <;> cases h
    · exact .returned _ _ _
    · exact .goes hp rfl rfl rfl rfl
  case p6 | p7 => cases h; exact .writes hp rfl rfl rfl fun hn => absurd (by simp [hp, claimLines]) hn
  case p8 => cases h; exact .writes hp rfl rfl rfl fun _ => ⟨id, id⟩
  case p10 | p13 | p17 => split at h <;> cases h <;> exact .goes hp rfl rfl rfl rfl
  case p14 | p15 | p18 | p20 => exact .call hp rfl h
  case p21 => cases h; exact .writes hp rfl rfl rfl fun _ => ⟨nofun, id⟩
  case p23 => cases h; exact .returned _ _ _
  all_goals cases h; exact .goes hp rfl rfl rfl rfl

theorem transferLine_move {l : TransferLine} {s t : State} (hp : s.hostPc = .line (.transfer l))
    (h : transferLine l s = .next t) : HostMove s t := by
  cases l <;> simp only [transferLine, readCrLocal_eq, writeSelect_eq, regWrite_er, regWrite_sr, regWrite_ier] at h
  case t1 => obtain ⟨-, h⟩ := checkReady_next h; cases h; exact .goes hp rfl rfl rfl rfl
  case t2 | t3 | t4 => split at h <;> cases h; exact .goes hp rfl rfl rfl rfl
  case t5 =>
    split at h <;> cases h
    · exact .returned _ _ _
    · exact .goes hp rfl rfl rfl rfl
  case t6 | t7 => cases h; exact .writes hp rfl rfl rfl fun hn => absurd (by simp [hp, claimLines]) hn
  case t8 =>
    cases h
    refine .writes hp rfl rfl (by simp) fun _ => ?_
    simp only [installTransferCounters]
    split <;> exact ⟨id, id⟩
  case t10 => split at h <;> cases h <;> exact .goes hp rfl rfl rfl rfl
  case t13 | t16 => exact .call hp rfl h
  case t17 => cases h; exact .returned _ _ _
  all_goals cases h; exact .goes hp rfl rfl rfl rfl

theorem abortLine_move {l : AbortLine} {s t : State} (hp : s.hostPc = .line (.abort l))
    (h : abortLine l s = .next t) : HostMove s t := by
  cases l <;> simp only [abortLine] at h
  case a1 => obtain ⟨-, h⟩ := checkReady_next h; cases h; exact .goes hp rfl rfl rfl rfl
  case a2 => exact .call hp rfl h
  case a10 => cases h; exact .returned _ _ _

theorem resetLine_move {l : ResetLine} {s t : State} (hp : s.hostPc = .line (.reset l))
    (h : resetLine l s = .next t) : HostMove s t := by
  cases l <;> simp only [resetLine, regWrite_cr] at h
  case x1 => obtain ⟨-, h⟩ := checkReady_next h; cases h; exact .goes hp rfl rfl rfl rfl
  case x2 => exact .call hp rfl h
  case x3 => cases h; exact .goes hp rfl rfl rfl rfl
  case x4 => cases h; exact .returned _ _ _

theorem configureLine_move {l : ConfigureLine} {s t : State} (hp : s.hostPc = .line (.configure l))
    (h : configureLine l s = .next t) : HostMove s t := by
  cases l <;> simp only [configureLine, readCrLocal_eq, regWrite_cr] at h
  case n1 => obtain ⟨-, h⟩ := checkReady_next h; cases h; exact .goes hp rfl rfl rfl rfl
  case n2 =>
    split at h <;> cases h
    · exact .returned _ _ _
    · exact .goes hp rfl rfl rfl rfl
  case n3 | n4 => cases h; exact .goes hp rfl rfl rfl rfl
  case n5 => cases h; exact .returned _ _ _

theorem hostLine_move {l : HostLine} {s t : State} (hp : s.hostPc = .line l) (h : hostLine l s = .next t) :
    HostMove s t := by
  cases l <;> simp only [hostLine] at h
  case init => exact initLine_move hp h
  case setStatusHandler => exact setStatusHandlerLine_move hp h
  case setSs => exact setSsLine_move hp h
  case getSs => exact getSsLine_move hp h
  case polled => exact polledLine_move hp h
  case transfer => exact transferLine_move hp h
  case abort => exact abortLine_move hp h
  case reset => exact resetLine_move hp h
  case configure => exact configureLine_move hp h

/-- A running Host's line moves it in one of the three ways. -/
theorem hostStep_move {s t : State} (hr : running .host s = true) (h : hostStep s = .next t) : HostMove s t := by
  unfold hostStep at h
  split at h
  · next hp => simp [running, hp] at hr
  · next l hp => exact hostLine_move hp h
  · next c q hp => exact .sub hp h

/-! ### The Handler -/

/-- Where one line leaves the Handler: active at a line of its list or inside a sub-sequence, or inactive at `H1` with its
locals cleared. -/
inductive HandlerControl (s t : State) : Prop where
  | goes (l : HandlerLine) (hp : t.handlerPc = .line l) (ha : t.handlerActive = s.handlerActive)
  | inside (c : HandlerLine) (q : SubLine)
      (hq : handlerPositionOk s.handlerPc = true → handlerCalls c = some q.sequence) (hp : t.handlerPc = .sub c q)
      (ha : t.handlerActive = s.handlerActive)
  | returned (hp : t.handlerPc = .line .h1) (ha : t.handlerActive = false) (hl : t.handlerLoc = Locals.fresh)

/-- What one line of the Handler does to the Handler and to the claim of the engine. -/
structure HandlerMove (s t : State) : Prop where
  control : HandlerControl s t
  claim : KeepsClaim s t

theorem HandlerMove.goes {s t : State} (l : HandlerLine) (hp : t.handlerPc = .line l)
    (ha : t.handlerActive = s.handlerActive) (he : t.engine = s.engine) : HandlerMove s t :=
  ⟨.goes l hp ha, .of_engine he⟩

/-- A line that calls a sub-sequence. -/
theorem HandlerMove.call {s t : State} {l : HandlerLine} {q : SubLine} (hs : s.handlerPc = .line l)
    (hq : handlerCalls l = some q.sequence) (h : callSub .handler q s = .next t) : HandlerMove s t := by
  obtain ⟨hp, ha, hk⟩ := callSub_handler hs h
  refine ⟨?_, hk⟩
  rcases hp with ⟨q', hq', hp⟩ | hp
  · exact .inside l q' (fun _ => by rw [hq, hq']) hp ha
  · exact .goes _ hp ha

/-- A line inside a sub-sequence. -/
theorem HandlerMove.sub {s t : State} {c : HandlerLine} {q : SubLine} (hs : s.handlerPc = .sub c q)
    (h : subLine .handler q s = .next t) : HandlerMove s t := by
  obtain ⟨-, ha, hk⟩ := (subLine_move h).keeps
  refine ⟨?_, hk⟩
  rcases (subLine_move h).handler hs with ⟨q', hq', hp⟩ | hp
  · exact .inside c q' (fun hok => by rw [hq']; simpa [hs, handlerPositionOk] using hok) hp ha
  · exact .goes _ hp ha

theorem handlerLine_move {l : HandlerLine} {s t : State} (hp : s.handlerPc = .line l) (h : handlerLine l s = .next t) :
    HandlerMove s t := by
  cases l <;> simp only [handlerLine, readSrLocal_eq, regWrite_sr, regWrite_idr, regWrite_ier, regWrite_er] at h
  case h6 | h10 | h11 | h14 | h19 | h23 | h28 => exact .call hp rfl h
  case h5 | h9 | h21 | h26 => obtain ⟨-, h⟩ := diff_next h; cases h; exact .goes _ rfl rfl rfl
  case h7 =>
    obtain ⟨_, -, h⟩ := callback_next h
    cases h; exact ⟨.returned rfl rfl rfl, .of_engine rfl⟩
  case h17 | h24 | h29 => obtain ⟨_, -, h⟩ := callback_next h; cases h; exact .goes _ rfl rfl rfl
  case h15 | h22 | h27 => cases h; exact ⟨.goes _ rfl rfl, nofun, id⟩
  case h30 => cases h; exact ⟨.returned rfl rfl rfl, .of_engine rfl⟩
  case h4 | h8 | h12 | h20 | h25 => split at h <;> cases h <;> exact .goes _ rfl rfl rfl
  all_goals cases h; exact .goes _ rfl rfl rfl

/-- The Handler's line moves it in one of the three ways. -/
theorem handlerStep_move {s t : State} (h : handlerStep s = .next t) : HandlerMove s t := by
  unfold handlerStep at h
  split at h
  · next l hp => exact handlerLine_move hp h
  · next c q hp => exact .sub hp h

end Sys2Proof.Machine
end

section
/-! SUPPORT. What every step keeps: the register block's legal form (R54, R89, R93, R293), and the sequencers' legal positions with
no local past its activation (R46 to R48, R180). -/

namespace Sys2Proof.Machine

/-! ### The register block -/

/-- A legal register block (R54, R89, R93, R293). -/
structure DevLegal (depth : Nat) (d : Dev) : Prop where
  cr : crStored d.cr = d.cr
  tx : d.txFifo.length ≤ depth
  rx : d.rxFifo.length ≤ depth
  armed : d.startArmed = true → d.en = true

theorem blockOk_iff (s : State) : BlockOk s ↔ DevLegal (fifoDepth s.params) s.dev :=
  ⟨fun ⟨hc, ht, hr, ha⟩ => ⟨hc, ht, hr, ha⟩, fun ⟨hc, ht, hr, ha⟩ => ⟨hc, ht, hr, ha⟩⟩

/-- A write that does not overflow the TX FIFO keeps the block legal: `CR` stores its stored bits, `ER` disarms as it disables,
and a start is armed only on an enabled device (R89, R93, R94). -/
theorem DevLegal.writeReg {s : State} {r : Reg} (h : DevLegal (fifoDepth s.params) s.dev) (ho : overflows r s = false)
    (v : Word) : DevLegal (fifoDepth s.params) (writeReg r v s.dev) := by
  obtain ⟨hc, ht, hr, ha⟩ := h
  cases r
  case cr =>
    refine ⟨crStored_crStored v, ht, hr, ?_⟩
    simp only [Machine.writeReg, crArms, Bool.or_eq_true, Bool.and_eq_true]
    rintro (h | ⟨-, h⟩)
    · exact ha h
    · exact h
  case er =>
    refine ⟨hc, ht, hr, ?_⟩
    simp [Machine.writeReg]
  case txd =>
    refine ⟨hc, ?_, hr, ha⟩
    simp only [overflows, decide_eq_false_iff_not] at ho
    simp [Machine.writeReg]
    omega
  case sr | ier | idr | imr | rxd => exact ⟨hc, ht, hr, ha⟩

/-- A received byte is dropped where the RX FIFO is full (R291, R292). -/
theorem DevLegal.receive {n : Nat} {d : Dev} (h : DevLegal n d) (b : Byte) : DevLegal n (receive n b d) := by
  obtain ⟨hc, ht, hr, ha⟩ := h
  unfold Machine.receive
  split
  · exact ⟨hc, ht, hr, ha⟩
  · next hne => exact ⟨hc, ht, by simp; omega, ha⟩

theorem DevLegal.disarmIfEmpty {n : Nat} {d : Dev} (h : DevLegal n d) : DevLegal n (disarmIfEmpty d) := by
  obtain ⟨hc, ht, hr, ha⟩ := h
  unfold Machine.disarmIfEmpty
  split
  · exact ⟨hc, ht, hr, nofun⟩
  · exact ⟨hc, ht, hr, ha⟩

theorem DevLegal.popTx {n : Nat} {d : Dev} {b : Byte} {rest : List Byte} (h : DevLegal n d) (hb : d.txFifo = b :: rest) :
    DevLegal n { d with txFifo := rest } := by
  obtain ⟨hc, ht, hr, ha⟩ := h
  exact ⟨hc, by simp only [hb, List.length_cons] at ht; simp; omega, hr, ha⟩

theorem DevLegal.popRx {n : Nat} {d : Dev} {b : Byte} {rest : List Byte} (h : DevLegal n d) (hb : d.rxFifo = b :: rest) :
    DevLegal n { d with rxFifo := rest } := by
  obtain ⟨hc, ht, hr, ha⟩ := h
  exact ⟨hc, ht, by simp only [hb, List.length_cons] at hr; simp; omega, ha⟩

theorem DevLegal.flags {n : Nat} {d : Dev} (h : DevLegal n d) (rxovr modf txuf : Bool) :
    DevLegal n { d with rxovr := rxovr, modf := modf, txuf := txuf } :=
  ⟨h.cr, h.tx, h.rx, h.armed⟩

/-- Every line keeps the block legal: the cases are what a line can do to it. -/
theorem lineStep_blockOk {a : Agent} {s t : State} (hs : BlockOk s) (h : lineStep a s = .next t) : BlockOk t := by
  rw [blockOk_iff] at hs ⊢
  rw [(lineStep_frame h).params]
  cases lineStep_effect h with
  | quiet he hd hm => rwa [hd]
  | pop b rest hb he hd hm => rw [hd]; exact hs.popRx hb
  | write r v ho he hd hm => rw [hd]; exact hs.writeReg ho v
  | store addr hp hr ha hb he hd hm => rwa [hd]
  | engine he hd hm => rwa [hd]

theorem masterExchange_blockOk (b : Byte) {s : State} (hs : BlockOk s) : BlockOk (masterExchange b s) := by
  rw [blockOk_iff] at hs ⊢
  rw [masterExchange_params]
  unfold masterExchange
  split
  · exact hs
  · next out rest hb => exact ((hs.popTx hb).receive b).disarmIfEmpty

theorem slaveExchange_blockOk (i m : Byte) {s : State} (hs : BlockOk s) : BlockOk (slaveExchange i m s) := by
  rw [blockOk_iff] at hs ⊢
  rw [slaveExchange_params]
  unfold slaveExchange
  split
  · exact (hs.flags s.dev.rxovr s.dev.modf true).receive m
  · next out rest hb => exact (hs.popTx hb).receive m

theorem closed_blockOk : Closed BlockOk where
  draw s h := by simpa [BlockOk] using h
  take _ _ h := h
  issued _ _ _ _ _ h := h
  entry _ h _ := h
  line _ _ _ h _ hl := lineStep_blockOk h hl
  master b _ h _ := masterExchange_blockOk b h
  slave i m _ h _ := slaveExchange_blockOk i m h
  fault _ h _ := h

/-- Settles O54: a legal register block is closed under every kind of step. -/
theorem stepKeepsBlockLegal : Obligations.StepKeepsBlockLegal := by
  unfold Obligations.StepKeepsBlockLegal
  exact fun _ _ hs h => closed_blockOk.step hs h

/-! ### The positions and the locals -/

theorem HostControl.positionOk {s t : State} (h : HostControl s t) (hs : hostPositionOk s.hostPc = true) :
    hostPositionOk t.hostPc = true := by
  cases h with
  | goes l hc hp ho => rw [hp]; rfl
  | inside c q hc hq hp ho => rw [hp]; simpa [hostPositionOk] using hq hs
  | returned hp ho hl => rw [hp]; rfl

theorem HandlerControl.positionOk {s t : State} (h : HandlerControl s t) (hs : handlerPositionOk s.handlerPc = true) :
    handlerPositionOk t.handlerPc = true := by
  cases h with
  | goes l hp ha => rw [hp]; rfl
  | inside c q hq hp ha => rw [hp]; simpa [handlerPositionOk] using hq hs
  | returned hp ha hl => rw [hp]; rfl

/-- A running agent's line keeps both sequencers at legal positions: it moves its own and leaves the other's. -/
theorem lineStep_positionsOk {a : Agent} {s t : State} (hs : PositionsOk s) (hr : running a s = true)
    (h : lineStep a s = .next t) : PositionsOk t := by
  obtain ⟨hh, hd⟩ := hs
  have hother := (lineStep_frame h).other
  cases a
  case host =>
    obtain ⟨-, hpc, -⟩ := hother
    exact ⟨(hostStep_move hr h).control.positionOk hh, hpc ▸ hd⟩
  case handler =>
    obtain ⟨hpc, -, -⟩ := hother
    exact ⟨hpc ▸ hh, (handlerStep_move h).control.positionOk hd⟩

theorem closed_positionsOk : Closed PositionsOk where
  draw s h := by simpa [PositionsOk] using h
  take _ _ h := h
  issued _ _ _ _ _ h := ⟨rfl, h.2⟩
  entry _ h _ := ⟨h.1, rfl⟩
  line _ _ _ h hr hl := lineStep_positionsOk h hr hl
  master b s h _ := by simpa [PositionsOk] using h
  slave i m s h _ := by simpa [PositionsOk] using h
  fault _ h _ := h

/-- An agent's line leaves it active, or clears what R48 lets no activation leave. -/
theorem lineStep_localsOk {a : Agent} {s t : State} (hs : LocalsOk s) (hr : running a s = true)
    (h : lineStep a s = .next t) : LocalsOk t := by
  obtain ⟨hh, hd⟩ := hs
  have hother := (lineStep_frame h).other
  cases a
  case host =>
    obtain ⟨hact, hpc, hloc⟩ := hother
    refine ⟨fun hi => ?_, fun ha => by rw [hpc, hloc]; exact hd (hact ▸ ha)⟩
    cases (hostStep_move hr h).control with
    | goes l hc hp ho => rw [hp] at hi; cases hi
    | inside c q hc hq hp ho => rw [hp] at hi; cases hi
    | returned hp ho hl => exact ⟨ho, hl⟩
  case handler =>
    obtain ⟨hpc, hops, hloc⟩ := hother
    refine ⟨fun hi => by rw [hops, hloc]; exact hh (hpc ▸ hi), fun hi => ?_⟩
    have hactive : s.handlerActive = true := hr
    cases (handlerStep_move h).control with
    | goes l hp ha => rw [ha, hactive] at hi; cases hi
    | inside c q hq hp ha => rw [ha, hactive] at hi; cases hi
    | returned hp ha hl => exact ⟨hp, hl⟩

theorem closed_localsOk : Closed LocalsOk where
  draw s h := by simpa [LocalsOk] using h
  take _ _ h := h
  issued _ _ _ _ _ h := ⟨nofun, h.2⟩
  entry _ h _ := ⟨h.1, nofun⟩
  line _ _ _ h hr hl := lineStep_localsOk h hr hl
  master b s h _ := by simpa [LocalsOk] using h
  slave i m s h _ := by simpa [LocalsOk] using h
  fault _ h _ := h

/-- Settles O56: legal positions and cleared locals are closed under every kind of step, so every step keeps both. -/
theorem stepKeepsPositionsLegal : Obligations.StepKeepsPositionsLegal := by
  unfold Obligations.StepKeepsPositionsLegal
  exact fun _ _ hp hl h => ⟨closed_positionsOk.step hp h, closed_localsOk.step hl h⟩

end Sys2Proof.Machine
end

section
/-! SUPPORT. What every step keeps of the engine record: the selection, the registered handler, the base and the send buffer of an
active transfer (R34, R44, R97, R168); and that only `INIT` binds the base (R35, R36). -/

namespace Sys2Proof.Machine

/-! ### What one line can do to each field -/

/-- A line leaves the engine record alone or has one of the listed effects on it. -/
theorem lineStep_engine {a : Agent} {s t : State} (h : lineStep a s = .next t) :
    t.engine = s.engine ∨ EngineEffect s t.engine := by
  cases lineStep_effect h with
  | quiet he hd hm => exact .inl he
  | pop b rest hb he hd hm => exact .inl he
  | write r v ho he hd hm => exact .inl he
  | store addr hp hr ha hb he hd hm => exact .inl he
  | engine he hd hm => exact .inr he

/-- The cached selection stands, or is an encoded pattern. -/
theorem lineStep_slaveSelect {a : Agent} {s t : State} (h : lineStep a s = .next t) :
    t.engine.slaveSelect = s.engine.slaveSelect ∨ ∃ k, t.engine.slaveSelect = enc k := by
  rcases lineStep_engine h with he | he
  · exact .inl (by rw [he])
  · generalize t.engine = e at he
    cases he with
    | selected k => exact .inr ⟨k, rfl⟩
    | _ => exact .inl rfl

/-- The status callback stands, is removed, or is the one `K4` registers. -/
theorem lineStep_statusCallback {a : Agent} {s t : State} (h : lineStep a s = .next t) :
    t.engine.statusCallback = s.engine.statusCallback ∨ t.engine.statusCallback = .stub ∨
      (s.hostPc = .line (.setStatusHandler .k4) ∧ t.engine.statusCallback = .registered s.hostOps.handler) := by
  rcases lineStep_engine h with he | he
  · exact .inl (by rw [he])
  · generalize t.engine = e at he
    cases he with
    | handler hp => exact .inr (.inr ⟨hp, rfl⟩)
    | stubbed => exact .inr (.inl rfl)
    | _ => exact .inl rfl

/-- The base address stands, or is the one `I3` binds. -/
theorem lineStep_baseAddress {a : Agent} {s t : State} (h : lineStep a s = .next t) :
    t.engine.baseAddress = s.engine.baseAddress ∨
      (s.hostPc = .line (.init .i3) ∧ t.engine.baseAddress = s.hostOps.base) := by
  rcases lineStep_engine h with he | he
  · exact .inl (by rw [he])
  · generalize t.engine = e at he
    cases he with
    | base hp => exact .inr ⟨hp, rfl⟩
    | _ => exact .inl rfl

/-- No line takes the engine's readiness back (R36). -/
theorem lineStep_isReady {a : Agent} {s t : State} (h : lineStep a s = .next t) (hs : s.engine.isReady = true) :
    t.engine.isReady = true := by
  rcases lineStep_engine h with he | he
  · rw [he]; exact hs
  · generalize t.engine = e at he
    cases he with
    | ready => rfl
    | _ => exact hs

/-! ### The selection -/

/-- An encoded pattern has at most one line low (R160). -/
theorem clearBits_enc (k : Word) : (clearBits (enc k)).length ≤ 1 := by
  unfold enc
  split
  · next h =>
    have hk : k.toNat = 0 ∨ k.toNat = 1 ∨ k.toNat = 2 ∨ k.toNat = 3 := by omega
    rcases hk with h | h | h | h <;> rw [h] <;> decide
  · decide

theorem lineStep_selectOk {a : Agent} {s t : State} (hs : SelectOk s) (h : lineStep a s = .next t) : SelectOk t := by
  unfold SelectOk at *
  rcases lineStep_slaveSelect h with he | ⟨k, he⟩
  · rwa [he]
  · rw [he]; exact clearBits_enc k

theorem closed_selectOk : Closed SelectOk where
  draw s h := by simpa [SelectOk] using h
  take _ _ h := h
  issued _ _ _ _ _ h := h
  entry _ h _ := h
  line _ _ _ h _ hl := lineStep_selectOk h hl
  master b s h _ := by simpa [SelectOk] using h
  slave i m s h _ := by simpa [SelectOk] using h
  fault _ h _ := h

/-! ### Reaching a line -/

/-- The lines that follow a call of a sub-sequence (R180). -/
def linesAfterCall : List HostLine :=
  [.init .i9, .polled .p15, .polled .p16, .polled .p19, .polled .p21, .transfer .t14, .transfer .t17, .abort .a10, .reset .x3]

theorem afterHostCall_mem {c : HostLine} {q : SubSequence} (h : hostCalls c = some q) :
    afterHostCall c ∈ linesAfterCall := by
  have hc : hostCalls c ≠ none := by simp [h]
  revert hc
  clear h
  rcases c with l | l | l | l | l | l | l | l | l <;> cases l <;> decide

/-- From a legal position, the Host comes to a line that follows no call from a line of the same command. -/
theorem hostStep_line {s t : State} {l : HostLine} (hok : hostPositionOk s.hostPc = true) (hr : running .host s = true)
    (h : hostStep s = .next t) (hp : t.hostPc = .line l) (hl : l ∉ linesAfterCall) :
    ∃ l₀, s.hostPc = .line l₀ ∧ l₀.command = l.command ∧ hostLine l₀ s = .next t := by
  have hm := hostStep_move hr h
  unfold hostStep at h
  split at h
  · next hi => simp [running, hi] at hr
  · next l₀ hl₀ =>
    refine ⟨l₀, hl₀, ?_, h⟩
    cases hm.control with
    | goes l' hc hp' ho =>
      obtain rfl : l' = l := by simpa [hp'] using hp
      simpa [hl₀, HostPc.command] using hc.symm
    | inside c q hc hq hp' ho => simp [hp'] at hp
    | returned hp' ho hl => simp [hp'] at hp
  · next c q hc =>
    rcases (subLine_move h).host hc with ⟨q', -, hp'⟩ | hp'
    · simp [hp'] at hp
    · obtain rfl : afterHostCall c = l := by simpa [hp'] using hp
      exact absurd (afterHostCall_mem (by simpa [hc, hostPositionOk] using hok)) hl

/-- A predicate of the engine, the Host's position and its operands that holds of a command's start and is kept by lines from
legal positions is closed together with the legal positions: no other kind of step writes any of the three. -/
theorem closed_withPositions {Q : State → Prop}
    (hQ : ∀ s t : State, t.engine = s.engine → t.hostPc = s.hostPc → t.hostOps = s.hostOps → Q s → Q t)
    (hstart : ∀ i l s, firstLine i = some l → HostFree s → Q s → Q (started (operands i) l s))
    (hline : ∀ a s t, PositionsOk s → Q s → running a s = true → lineStep a s = .next t → Q t) :
    Closed fun s => PositionsOk s ∧ Q s where
  draw s h := ⟨closed_positionsOk.draw s h.1, hQ s _ (by simp) (by simp) (by simp) h.2⟩
  take s r h := ⟨closed_positionsOk.take s r h.1, hQ s _ rfl rfl rfl h.2⟩
  issued i l s hl hf h := ⟨closed_positionsOk.issued i l s hl hf h.1, hstart i l s hl hf h.2⟩
  entry s h he := ⟨closed_positionsOk.entry s h.1 he, hQ s _ rfl rfl rfl h.2⟩
  line a s t h hr hl := ⟨closed_positionsOk.line a s t h.1 hr hl, hline a s t h.1 h.2 hr hl⟩
  master b s h he := ⟨closed_positionsOk.master b s h.1 he, hQ s _ (by simp) (by simp) (by simp) h.2⟩
  slave i m s h he := ⟨closed_positionsOk.slave i m s h.1 he, hQ s _ (by simp) (by simp) (by simp) h.2⟩
  fault s h he := ⟨closed_positionsOk.fault s h.1 he, hQ s _ rfl rfl rfl h.2⟩

/-! ### The registered handler -/

/-- `K3` and `K4` are reached with a handler that `K2` has found nonzero (R275, R325). -/
theorem setStatusHandlerLine_handler {l : SetStatusHandlerLine} {s t : State} (h : setStatusHandlerLine l s = .next t)
    (hs : l = .k3 → s.hostOps.handler ≠ 0#32)
    (ht : t.hostPc = .line (.setStatusHandler .k3) ∨ t.hostPc = .line (.setStatusHandler .k4)) :
    t.hostOps.handler ≠ 0#32 := by
  cases l <;> simp only [setStatusHandlerLine] at h
  case k1 => obtain ⟨-, h⟩ := checkReady_next h; cases h; simp at ht
  case k2 =>
    split at h <;> cases h
    assumption
  case k3 => cases h; exact hs rfl
  case k4 | k5 => cases h; simp at ht

theorem lineStep_callbackOk {a : Agent} {s t : State} (hp : PositionsOk s) (hs : CallbackOk s)
    (hr : running a s = true) (h : lineStep a s = .next t) : CallbackOk t := by
  obtain ⟨hreg, hops⟩ := hs
  refine ⟨?_, fun ht => ?_⟩
  · rcases lineStep_statusCallback h with he | he | ⟨hk, he⟩
    · rwa [he]
    · rw [he]; exact nofun
    · rw [he]; simpa using hops (.inr hk)
  · have hother := (lineStep_frame h).other
    cases a
    case handler =>
      obtain ⟨hpc, ho, -⟩ := hother
      rw [ho]; exact hops (hpc ▸ ht)
    case host =>
      have hl : ∃ k, t.hostPc = .line (.setStatusHandler k) ∧ HostLine.setStatusHandler k ∉ linesAfterCall := by
        rcases ht with ht | ht <;> exact ⟨_, ht, by decide⟩
      obtain ⟨k, hk, hn⟩ := hl
      obtain ⟨l₀, hl₀, hc, h⟩ := hostStep_line hp.1 hr h hk hn
      cases l₀ <;> cases hc
      exact setStatusHandlerLine_handler h (fun e => hops (.inl (e ▸ hl₀))) ht

theorem closed_callbackOk : Closed fun s => PositionsOk s ∧ CallbackOk s :=
  closed_withPositions (fun s t he hp ho hs => by simpa only [CallbackOk, he, hp, ho] using hs)
    (fun i l s hl hf hs => ⟨hs.1, fun hp => by cases i <;> cases hl <;> simp at hp⟩) fun _ _ _ => lineStep_callbackOk

/-! ### The base address -/

/-- `I2` and `I3` are reached with a base that `I1` has found aligned (R270, R328). -/
theorem initLine_base {l : InitLine} {s t : State} (hl : s.hostPc = .line (.init l)) (h : initLine l s = .next t)
    (hs : l = .i2 → s.hostOps.base.toNat % 4 = 0)
    (ht : t.hostPc = .line (.init .i2) ∨ t.hostPc = .line (.init .i3)) : t.hostOps.base.toNat % 4 = 0 := by
  cases l <;> simp only [initLine, regWrite_cr] at h
  case i1 =>
    split at h <;> cases h
    next hb => simpa using hb
  case i2 =>
    split at h <;> cases h
    · simp at ht
    · exact hs rfl
  case i8 => rcases (callSub_host hl h).1 with ⟨q, -, hp⟩ | hp <;> simp [hp, afterHostCall] at ht
  all_goals cases h; simp at ht

theorem lineStep_baseOk {a : Agent} {s t : State} (hp : PositionsOk s) (hs : BaseOk s) (hr : running a s = true)
    (h : lineStep a s = .next t) : BaseOk t := by
  obtain ⟨hbase, hops⟩ := hs
  refine ⟨?_, fun ht => ?_⟩
  · rcases lineStep_baseAddress h with he | ⟨hi, he⟩
    · rwa [he]
    · rw [he]; exact hops (.inr hi)
  · have hother := (lineStep_frame h).other
    cases a
    case handler =>
      obtain ⟨hpc, ho, -⟩ := hother
      rw [ho]; exact hops (hpc ▸ ht)
    case host =>
      have hl : ∃ i, t.hostPc = .line (.init i) ∧ HostLine.init i ∉ linesAfterCall := by
        rcases ht with ht | ht <;> exact ⟨_, ht, by decide⟩
      obtain ⟨i, hi, hn⟩ := hl
      obtain ⟨l₀, hl₀, hc, h⟩ := hostStep_line hp.1 hr h hi hn
      cases l₀ <;> cases hc
      exact initLine_base hl₀ h (fun e => hops (.inl (e ▸ hl₀))) ht

theorem closed_baseOk : Closed fun s => PositionsOk s ∧ BaseOk s :=
  closed_withPositions (fun s t he hp ho hs => by simpa only [BaseOk, he, hp, ho] using hs)
    (fun i l s hl hf hs => ⟨hs.1, fun hp => by cases i <;> cases hl <;> simp at hp⟩) fun _ _ _ => lineStep_baseOk

/-! ### The send buffer of an active transfer -/

/-- The lines of a transfer between the check of its send buffer and its installation: the buffer operand is present. -/
def sendLines : List HostLine :=
  [.polled .p3, .polled .p4, .polled .p5, .polled .p6, .polled .p7, .transfer .t3, .transfer .t4, .transfer .t5,
    .transfer .t6, .transfer .t7]

/-- The lines of `INIT` between its busy check and the removal of the buffers: the engine is not busy. -/
def clearLines : List HostLine := [.init .i3, .init .i4, .init .i5]

/-- `P3` to `P7` are reached with a send buffer that `P2` has found present (R200, R322). -/
theorem polledLine_send {l : PolledLine} {s t : State} (hl : s.hostPc = .line (.polled l))
    (h : polledLine l s = .next t) (hs : HostLine.polled l ∈ sendLines → s.hostOps.send ≠ none)
    {l' : HostLine} (ht : t.hostPc = .line l') (hm : l' ∈ sendLines) : t.hostOps.send ≠ none := by
  cases l <;> simp only [polledLine, readCrLocal_eq, readSrLocal_eq, writeSelect_eq, regWrite_er] at h
  case p1 => obtain ⟨-, h⟩ := checkReady_next h; cases h; cases ht; simp [sendLines] at hm
  case p2 =>
    split at h <;> cases h
    assumption
  case p3 | p4 => split at h <;> cases h; exact hs (by decide)
  case p5 =>
    split at h <;> cases h
    · cases ht
    · exact hs (by decide)
  case p6 => cases h; exact hs (by decide)
  case p10 | p13 | p17 => split at h <;> cases h <;> cases ht <;> simp [sendLines] at hm
  case p14 | p15 | p18 | p20 =>
    rcases (callSub_host hl h).1 with ⟨q, -, hp⟩ | hp <;> cases hp.symm.trans ht
    simp [afterHostCall, sendLines] at hm
  case p23 => cases h; cases ht
  all_goals cases h; cases ht; simp [sendLines] at hm

/-- `T3` to `T7` likewise (R220, R322). -/
theorem transferLine_send {l : TransferLine} {s t : State} (hl : s.hostPc = .line (.transfer l))
    (h : transferLine l s = .next t) (hs : HostLine.transfer l ∈ sendLines → s.hostOps.send ≠ none)
    {l' : HostLine} (ht : t.hostPc = .line l') (hm : l' ∈ sendLines) : t.hostOps.send ≠ none := by
  cases l <;> simp only [transferLine, readCrLocal_eq, writeSelect_eq, regWrite_er, regWrite_sr, regWrite_ier] at h
  case t1 => obtain ⟨-, h⟩ := checkReady_next h; cases h; cases ht; simp [sendLines] at hm
  case t2 =>
    split at h <;> cases h
    assumption
  case t3 | t4 => split at h <;> cases h; exact hs (by decide)
  case t5 =>
    split at h <;> cases h
    · cases ht
    · exact hs (by decide)
  case t6 => cases h; exact hs (by decide)
  case t10 => split at h <;> cases h <;> cases ht <;> simp [sendLines] at hm
  case t13 | t16 =>
    rcases (callSub_host hl h).1 with ⟨q, -, hp⟩ | hp <;> cases hp.symm.trans ht
    simp [afterHostCall, sendLines] at hm
  case t17 => cases h; cases ht
  all_goals cases h; cases ht; simp [sendLines] at hm

/-- `I3` to `I5` are reached on an engine that `I2` has found not busy (R270). -/
theorem initLine_clear {l : InitLine} {s t : State} (hl : s.hostPc = .line (.init l)) (h : initLine l s = .next t)
    (hs : HostLine.init l ∈ clearLines → s.engine.isBusy = false)
    {l' : HostLine} (ht : t.hostPc = .line l') (hm : l' ∈ clearLines) : t.engine.isBusy = false := by
  cases l <;> simp only [initLine, regWrite_cr] at h
  case i1 => split at h <;> cases h; cases ht; simp [clearLines] at hm
  case i2 =>
    split at h <;> cases h
    · cases ht
    · next hb => simpa using hb
  case i3 | i4 => cases h; exact hs (by decide)
  case i8 =>
    rcases (callSub_host hl h).1 with ⟨q, -, hp⟩ | hp <;> cases hp.symm.trans ht
    simp [afterHostCall, clearLines] at hm
  case i10 => cases h; cases ht
  all_goals cases h; cases ht; simp [clearLines] at hm

/-- `SendOk`, by the lines it speaks of. -/
theorem sendOk_iff (s : State) :
    SendOk s ↔
      (s.engine.isBusy = true →
        s.engine.sendBuffer ≠ none ∨ s.hostPc = .line (.polled .p7) ∨ s.hostPc = .line (.transfer .t7)) ∧
      (∀ l, s.hostPc = .line l → l ∈ sendLines → s.hostOps.send ≠ none) ∧
      (∀ l, s.hostPc = .line l → l ∈ clearLines → s.engine.isBusy = false) := by
  have hsend : s.hostPc ∈ sendLines.map HostPc.line ↔ ∃ l, s.hostPc = .line l ∧ l ∈ sendLines := by
    simp only [List.mem_map, eq_comm, and_comm]
  have hclear : s.hostPc ∈ clearLines.map HostPc.line ↔ ∃ l, s.hostPc = .line l ∧ l ∈ clearLines := by
    simp only [List.mem_map, eq_comm, and_comm]
  change (_ ∧ (s.hostPc ∈ sendLines.map HostPc.line → _) ∧ (s.hostPc ∈ clearLines.map HostPc.line → _)) ↔ _
  rw [hsend, hclear]
  simp only [forall_exists_index, and_imp]

/-- A step that keeps the claim, and the operands and the idle engine where they are needed, keeps `SendOk`. -/
theorem SendOk.of_keepsClaim {s t : State} (hs : SendOk s) (hk : KeepsClaim s t)
    (hpc : s.hostPc = .line (.polled .p7) ∨ s.hostPc = .line (.transfer .t7) → t.hostPc = s.hostPc)
    (hsend : ∀ l, t.hostPc = .line l → l ∈ sendLines → t.hostOps.send ≠ none)
    (hclear : ∀ l, t.hostPc = .line l → l ∈ clearLines → t.engine.isBusy = false) : SendOk t := by
  refine (sendOk_iff t).2 ⟨fun hb => ?_, hsend, hclear⟩
  rcases hs.1 (hk.busy hb) with hn | hp
  · exact .inl fun ht => hn (hk.send ht)
  · exact .inr (hpc hp ▸ hp)

/-- The Host's lines: the claim comes with the operand, the installation with the buffer, the removal on an idle engine. -/
theorem hostStep_sendOk {s t : State} (hp : PositionsOk s) (hs : SendOk s) (hr : running .host s = true)
    (h : hostStep s = .next t) : SendOk t := by
  obtain ⟨-, hops, hidle⟩ := (sendOk_iff s).1 hs
  have hsend : ∀ l, t.hostPc = .line l → l ∈ sendLines → t.hostOps.send ≠ none := by
    intro l hl hm
    have hcmd : ∀ l ∈ sendLines, l ∉ linesAfterCall ∧ (l.command = .polledTransfer ∨ l.command = .transfer) := by decide
    obtain ⟨l₀, hl₀, hc, hline⟩ := hostStep_line hp.1 hr h hl (hcmd l hm).1
    rcases (hcmd l hm).2 with hl' | hl' <;> cases l₀ <;> cases hc.trans hl'
    · exact polledLine_send hl₀ hline (hops _ hl₀) hl hm
    · exact transferLine_send hl₀ hline (hops _ hl₀) hl hm
  have hclear : ∀ l, t.hostPc = .line l → l ∈ clearLines → t.engine.isBusy = false := by
    intro l hl hm
    have hcmd : ∀ l ∈ clearLines, l ∉ linesAfterCall ∧ l.command = .init := by decide
    obtain ⟨l₀, hl₀, hc, hline⟩ := hostStep_line hp.1 hr h hl (hcmd l hm).1
    cases l₀ <;> cases hc.trans (hcmd l hm).2
    exact initLine_clear hl₀ hline (hidle _ hl₀) hl hm
  by_cases hc : s.hostPc ∈ claimLines
  · refine (sendOk_iff t).2 ⟨fun hb => ?_, hsend, hclear⟩
    simp only [claimLines, List.mem_cons, List.not_mem_nil, or_false] at hc
    rcases hc with e | e | e | e | e <;>
      simp only [hostStep, e, hostLine, polledLine, transferLine, initLine] at h <;> cases h
    · exact .inr (.inl rfl)
    · exact .inl (hops _ e (by decide))
    · exact .inr (.inr rfl)
    · exact .inl (hops _ e (by decide))
    · exact absurd hb (by simp [hidle _ e (by decide)])
  · exact hs.of_keepsClaim ((hostStep_move hr h).claim hc)
      (fun hp7 => absurd (by rcases hp7 with e | e <;> simp [e, claimLines]) hc) hsend hclear

theorem lineStep_sendOk {a : Agent} {s t : State} (hp : PositionsOk s) (hs : SendOk s) (hr : running a s = true)
    (h : lineStep a s = .next t) : SendOk t := by
  cases a
  case host => exact hostStep_sendOk hp hs hr h
  case handler =>
    obtain ⟨-, hops, hidle⟩ := (sendOk_iff s).1 hs
    obtain ⟨hpc, ho, -⟩ := (lineStep_frame h).other
    have hk := (handlerStep_move h).claim
    refine hs.of_keepsClaim hk (fun _ => hpc) (fun l hl => ?_) (fun l hl hm => ?_)
    · rw [ho]; exact hops l (hpc ▸ hl)
    · exact Bool.eq_false_iff.2 fun hb => by simpa [hidle l (hpc ▸ hl) hm] using hk.busy hb

theorem started_sendOk {i : Instr} {l : HostLine} {s : State} (hl : firstLine i = some l) (hf : HostFree s)
    (hs : SendOk s) : SendOk (started (operands i) l s) := by
  have hfirst : l ∉ sendLines ∧ l ∉ clearLines := by cases i <;> cases hl <;> decide
  refine hs.of_keepsClaim (.of_engine rfl) (by simp [hf.1]) (fun l' hl' hm => ?_) (fun l' hl' hm => ?_) <;> cases hl'
  · exact absurd hm hfirst.1
  · exact absurd hm hfirst.2

theorem closed_sendOk : Closed fun s => PositionsOk s ∧ SendOk s :=
  closed_withPositions (fun s t he hp ho hs => by simpa only [SendOk, he, hp, ho] using hs)
    (fun _ _ _ => started_sendOk) fun _ _ _ => lineStep_sendOk

/-- Settles O55: each of the four, three of them together with the legal positions, is closed under every kind of step. -/
theorem stepKeepsEngineLegal : Obligations.StepKeepsEngineLegal := by
  unfold Obligations.StepKeepsEngineLegal
  intro s t hp h
  exact ⟨fun hs => closed_selectOk.step hs h, fun hs => (closed_callbackOk.step ⟨hp, hs⟩ h).2,
    fun hs => (closed_baseOk.step ⟨hp, hs⟩ h).2, fun hs => (closed_sendOk.step ⟨hp, hs⟩ h).2⟩

end Sys2Proof.Machine
end

section
/-! SUPPORT. Only `INIT` binds the base address, and a ready engine stays ready (R35, R36). -/

namespace Sys2Proof.Machine

theorem closed_isReady : Closed fun s => s.engine.isReady = true where
  draw s h := by simpa using h
  take _ _ h := h
  issued _ _ _ _ _ h := h
  entry _ h _ := h
  line _ _ _ h _ hl := lineStep_isReady hl h
  master b s h _ := by simpa using h
  slave i m s h _ := by simpa using h
  fault _ h _ := h

/-- What holds while the lines of a command run from a state with base `b`: the Host has returned or stands in the command with
its operands, and the base is `b` or the one an `INIT` binds. -/
structure InCommand (i : Instr) (b : Word) (s : State) : Prop where
  control : s.hostPc = .idle ∨ (s.hostPc.command = some i.command ∧ s.hostOps = operands i)
  base : s.engine.baseAddress = b ∨ i = .init s.engine.baseAddress

theorem InCommand.line {i : Instr} {b : Word} {s t : State} (hs : InCommand i b s) (hr : running .host s = true)
    (h : lineStep .host s = .next t) : InCommand i b t := by
  have hni : s.hostPc ≠ .idle := by simpa [running] using hr
  obtain ⟨hc, ho⟩ := hs.control.resolve_left hni
  constructor
  · cases (hostStep_move hr h).control with
    | goes l hl hp ho' => exact .inr ⟨by rw [hp, HostPc.command, hl, hc], ho'.trans ho⟩
    | inside c q hl hq hp ho' => exact .inr ⟨by rw [hp, HostPc.command, hl, hc], ho'.trans ho⟩
    | returned hp ho' hl => exact .inl hp
  · rcases lineStep_baseAddress h with he | ⟨hi, he⟩
    · rw [he]; exact hs.base
    · rw [he, ho]
      rw [hi] at hc
      cases i <;> cases hc
      exact .inr rfl

/-- A command that goes on leaves the base as it was, or is the `INIT` that bound it. -/
theorem exec_baseAddress {i : Instr} {s t : State} (hi : i ≠ .irq) (h : exec i s = .next t) :
    t.engine.baseAddress = s.engine.baseAddress ∨ (s.hostPc = .idle ∧ i = .init t.engine.baseAddress) := by
  rcases exec_next h with ⟨he, -⟩ | ⟨l, hl, h⟩
  · exact absurd he hi
  · obtain ⟨hf, s', hs', h⟩ := issue_next h
    have hstart : InCommand i s.engine.baseAddress (started (operands i) l s) := by
      refine ⟨.inr ⟨?_, rfl⟩, .inl rfl⟩
      cases i <;> cases hl <;> rfl
    have hrun : InCommand i s.engine.baseAddress t :=
      runAhead_keeps (fun _ _ hs hr hl => hs.line hr hl) (hstart.line rfl hs') h
    exact hrun.base.imp_right fun he => ⟨hf.1, he⟩

/-- While the Handler runs, the Host stands; the base changes only where the Host stands at `I3`. -/
structure HostAt (s₀ s : State) : Prop where
  hostPc : s.hostPc = s₀.hostPc
  hostOps : s.hostOps = s₀.hostOps
  base : s.engine.baseAddress = s₀.engine.baseAddress ∨
    (s₀.hostPc = .line (.init .i3) ∧ s.engine.baseAddress = s₀.hostOps.base)

theorem HostAt.handlerLine {s₀ s t : State} (hs : HostAt s₀ s) (h : lineStep .handler s = .next t) : HostAt s₀ t := by
  obtain ⟨hpc, ho, -⟩ := (lineStep_frame h).other
  refine ⟨hpc.trans hs.hostPc, ho.trans hs.hostOps, ?_⟩
  rcases lineStep_baseAddress h with he | ⟨hi, he⟩
  · rw [he]; exact hs.base
  · exact .inr ⟨hs.hostPc ▸ hi, by rw [he, hs.hostOps]⟩

theorem startHandler_baseAddress {s t : State} (h : startHandler s = .next t) :
    t.engine.baseAddress = s.engine.baseAddress ∨
      (s.hostPc = .line (.init .i3) ∧ t.engine.baseAddress = s.hostOps.base) := by
  rcases startHandler_next h with ⟨-, rfl⟩ | ⟨-, h⟩
  · exact .inl rfl
  · have hentry : HostAt s (trapEntry s) := ⟨rfl, rfl, .inl rfl⟩
    exact (runAhead_keeps (P := HostAt s) (fun _ _ hs _ hl => hs.handlerLine hl) hentry h).base

/-- The base stands, or `I3` binds it, or an `INIT` taken in this step does. -/
def BindsBase (s t : State) : Prop :=
  t.engine.baseAddress = s.engine.baseAddress ∨
    (s.hostPc = .line (.init .i3) ∧ t.engine.baseAddress = s.hostOps.base) ∨
    (s.hostPc = .idle ∧ ∃ rest, decode s.stream = .ok (.init t.engine.baseAddress) rest)

theorem StepCase.bindsBase {s t : State} (h : StepCase s t) : BindsBase s t := by
  cases h with
  | rest ht => exact .inl (by rw [ht])
  | line a hr h => exact (lineStep_baseAddress h).imp_right .inl
  | command i rest hd hi h =>
    exact (exec_baseAddress hi h).imp_right fun ⟨hf, he⟩ => .inr ⟨hf, rest, by rw [hd, ← he]⟩
  | start h => exact (startHandler_baseAddress h).imp_right .inl
  | master b he ht => exact .inl (by simp [ht])
  | slave i m he ht => exact .inl (by simp [ht])
  | fault he ht => exact .inl (by simp [ht])

/-- Settles O60: readiness is closed under every kind of step; the base is followed through the kinds of step, with the lines of
one command kept apart from the lines of the others. -/
theorem onlyInitBindsBase : Obligations.OnlyInitBindsBase := by
  unfold Obligations.OnlyInitBindsBase
  intro s t h
  refine ⟨fun hs => closed_isReady.step hs h, fun hne => ?_⟩
  have hb : BindsBase s t := by
    rcases step_cases h with h | h
    · exact h.bindsBase
    · simpa [BindsBase] using h.bindsBase
  exact (hb.resolve_left hne).imp_right fun ⟨hf, rest, hd⟩ => ⟨hf, _, rest, hd, rfl⟩

end Sys2Proof.Machine
end

section
/-! SUPPORT. What a step is, by who takes it (R31 to R33, R45 to R47, R290, R300): the sequencer where nothing else can
step or the draw leaves it the step, else the drawn move. -/

namespace Sys2Proof.Machine

/-! ### Who steps -/

theorem step_undisturbed {s : State} (h : otherEnabled s = false) : step s = sequencerStep s := by
  simp [step, machineStep, h]

/-- Where another agent could step, the head of the schedule is taken, in the state without it. -/
theorem step_drawn {s : State} {m : Move} {moves : List Move} (h : otherEnabled s = true) (hm : s.schedule = m :: moves) :
    step s = takeMove m { s with schedule := moves } := by
  simp [step, machineStep, h, drawMove, afterDraw, hm]

theorem sequencerStep_handler {s : State} (h : s.handlerActive = true) : sequencerStep s = handlerStep s := by
  simp [sequencerStep, h]

theorem sequencerStep_host {s : State} (h : s.handlerActive = false) (hp : s.hostPc ≠ .idle) :
    sequencerStep s = hostStep s := by
  unfold sequencerStep
  rw [h]
  cases hpc : s.hostPc with
  | idle => exact absurd hpc hp
  | line l => simp
  | sub c q => simp

theorem sequencerStep_free {s : State} (h : HostFree s) : sequencerStep s = fetch s := by
  obtain ⟨hp, ha⟩ := h
  simp [sequencerStep, ha, hp]

/-- A stream that decodes to a Host command is that command's meaning with its words taken (R120). -/
theorem fetch_decoded {s : State} {i : Instr} {rest : List Word} (hd : decode s.stream = .ok i rest)
    (hi : hostCommand i = true) : fetch s = exec i { s with stream := rest } := by
  unfold fetch
  split
  · next hnil => simp [hnil, decode] at hd
  · cases i <;> simp [hostCommand] at hi <;> simp [hd]

/-- When a master exchange is enabled (R290). -/
theorem masterEnabled_iff (s : State) :
    masterEnabled s = true ↔ s.dev.en = true ∧ crMstren s.dev.cr = true ∧ s.dev.txFifo ≠ [] ∧
      (crManstrtEn s.dev.cr = false ∨ s.dev.startArmed = true) := by
  simp [masterEnabled, and_assoc]

/-- When a slave exchange is enabled (R290). -/
theorem slaveEnabled_iff (s : State) : slaveEnabled s = true ↔ s.dev.en = true ∧ crMstren s.dev.cr = false := by
  simp [slaveEnabled]

/-- When a mode fault is enabled (R290, R294). -/
theorem modeFaultEnabled_iff (s : State) : modeFaultEnabled s = true ↔ s.dev.en = true ∧ crMstren s.dev.cr = true := by
  simp [modeFaultEnabled]

/-- When the platform step is enabled (R300, R301). -/
theorem startEnabled_iff (s : State) :
    startEnabled s = true ↔
      irqLine s.params s.dev = true ∧ s.handlerActive = false ∧ s.params.irqConnected = true := by
  simp [startEnabled, and_assoc]

theorem otherEnabled_iff (s : State) :
    otherEnabled s = true ↔
      masterEnabled s = true ∨ slaveEnabled s = true ∨ modeFaultEnabled s = true ∨ startEnabled s = true := by
  simp [otherEnabled, or_assoc]

/-! ### The statements -/

/-- Settles O6: the sequencer of a free Host fetches, whether it steps alone or is drawn. -/
theorem stepRunsDecodedCommand : Obligations.StepRunsDecodedCommand := by
  unfold Obligations.StepRunsDecodedCommand
  intro s i rest hf hd hi
  refine ⟨fun ho => ?_, fun moves ho hm => ?_⟩
  · rw [step_undisturbed ho, sequencerStep_free hf, fetch_decoded hd hi]
  · have hf' : HostFree { s with schedule := moves } := hf
    rw [step_drawn ho hm]
    exact (sequencerStep_free hf').trans (fetch_decoded hd hi)

/-- Settles O8: the conditions are those of the rules; a drawn move is `takeMove` in the state without it, whose conditions are
those of the state before the draw. -/
theorem stepTakesDrawnMove : Obligations.StepTakesDrawnMove := by
  unfold Obligations.StepTakesDrawnMove
  intro s
  refine ⟨masterEnabled_iff s, slaveEnabled_iff s, modeFaultEnabled_iff s, startEnabled_iff s, otherEnabled_iff s,
    step_undisturbed, ?_⟩
  rintro u m moves ho hm rfl
  refine ⟨?_, ?_, ?_, ?_⟩
  · rintro response rfl; exact step_drawn ho hm
  · rintro idle master rfl; exact step_drawn ho hm
  · rintro rfl; exact step_drawn ho hm
  · rintro rfl; exact step_drawn ho hm

/-- Settles O9: the sequencer's step is the Handler's line while it is active, else the running Host's. -/
theorem stepRunsOneLine : Obligations.StepRunsOneLine := by
  unfold Obligations.StepRunsOneLine
  intro s
  refine ⟨fun ha => ⟨fun ho => ?_, fun moves ho hm => ?_⟩, fun ha hp => ⟨fun ho => ?_, fun moves ho hm => ?_⟩⟩
  · rw [step_undisturbed ho, sequencerStep_handler ha]
  · rw [step_drawn ho hm]
    exact sequencerStep_handler (s := { s with schedule := moves }) ha
  · rw [step_undisturbed ho, sequencerStep_host ha hp]
  · rw [step_drawn ho hm]
    exact sequencerStep_host (s := { s with schedule := moves }) ha hp

/-! ### The Host while the Handler is active -/

/-- The Host took no step: its position, operands, locals and stream stand (R32). -/
structure HostStands (s t : State) : Prop where
  hostPc : t.hostPc = s.hostPc
  hostOps : t.hostOps = s.hostOps
  hostLoc : t.hostLoc = s.hostLoc
  stream : t.stream = s.stream

theorem sequencerStep_hostStands {s t : State} (ha : s.handlerActive = true) (h : sequencerStep s = .next t) :
    HostStands s t := by
  rw [sequencerStep_handler ha] at h
  have hf : LineFrame .handler s t := lineStep_frame h
  obtain ⟨hpc, ho, hl⟩ := hf.other
  exact ⟨hpc, ho, hl, hf.stream⟩

/-- No move but the sequencer's is a step of the Host, and no handler starts while one is active (R300). -/
theorem takeMove_hostStands {m : Move} {s t : State} (ha : s.handlerActive = true) (h : takeMove m s = .next t) :
    HostStands s t := by
  cases m with
  | sequencer => exact sequencerStep_hostStands ha h
  | masterExchange b =>
    simp only [takeMove] at h
    split at h
    · cases h; exact ⟨by simp, by simp, by simp, by simp⟩
    · exact sequencerStep_hostStands ha h
  | slaveExchange i m =>
    simp only [takeMove] at h
    split at h
    · cases h; exact ⟨by simp, by simp, by simp, by simp⟩
    · exact sequencerStep_hostStands ha h
  | modeFault =>
    simp only [takeMove] at h
    split at h
    · cases h; exact ⟨rfl, rfl, rfl, rfl⟩
    · exact sequencerStep_hostStands ha h
  | handlerStart =>
    have hn : startEnabled s = false := by simp [startEnabled, ha]
    simp only [takeMove, hn] at h
    exact sequencerStep_hostStands ha h

/-- Settles O58: whoever is drawn, the step is a line of the Handler or one of the Device or the Far end. -/
theorem hostStandsWhileHandlerActive : Obligations.HostStandsWhileHandlerActive := by
  unfold Obligations.HostStandsWhileHandlerActive
  intro s t ha h
  have hst : HostStands s t := by
    simp only [step, machineStep] at h
    split at h
    · obtain ⟨hpc, ho, hl, hs⟩ := takeMove_hostStands (by simpa using ha) h
      exact ⟨by simpa using hpc, by simpa using ho, by simpa using hl, by simpa using hs⟩
    · exact sequencerStep_hostStands ha h
  exact ⟨hst.hostPc, hst.hostOps, hst.hostLoc, hst.stream⟩

end Sys2Proof.Machine
end

section
/-! SUPPORT. The status register and the interrupt line (R56, R57, R90), and the reset state (R62, R64, R363). -/

namespace Sys2Proof.Machine

/-! ### The status register -/

/-- Every bit of the status register's value (R56). -/
theorem srValue_getLsbD (p : Params) (d : Dev) (j : Nat) :
    (srValue p d).getLsbD j =
      (d.rxovr && decide (j = 0) || d.modf && decide (j = 1) || (d.txFifo.length == 0) && decide (j = 2) ||
        (d.txFifo.length == fifoDepth p) && decide (j = 3) || decide (0 < d.rxFifo.length) && decide (j = 4) ||
        (d.rxFifo.length == fifoDepth p) && decide (j = 5) || d.txuf && decide (j = 6)) := by
  simp only [srValue, BitVec.getLsbD_or, flagAt_getLsbD (show 0 < 32 by decide), flagAt_getLsbD (show 1 < 32 by decide),
    flagAt_getLsbD (show 2 < 32 by decide), flagAt_getLsbD (show 3 < 32 by decide), flagAt_getLsbD (show 4 < 32 by decide),
    flagAt_getLsbD (show 5 < 32 by decide), flagAt_getLsbD (show 6 < 32 by decide)]

@[simp] theorem srRxovr_srValue (p : Params) (d : Dev) : srRxovr (srValue p d) = d.rxovr := by
  rw [srRxovr, srValue_getLsbD]; simp
@[simp] theorem srModf_srValue (p : Params) (d : Dev) : srModf (srValue p d) = d.modf := by
  rw [srModf, srValue_getLsbD]; simp
@[simp] theorem srTxrdy_srValue (p : Params) (d : Dev) : srTxrdy (srValue p d) = (d.txFifo.length == 0) := by
  rw [srTxrdy, srValue_getLsbD]; simp
@[simp] theorem srTxfull_srValue (p : Params) (d : Dev) :
    srTxfull (srValue p d) = (d.txFifo.length == fifoDepth p) := by
  rw [srTxfull, srValue_getLsbD]; simp
@[simp] theorem srRxne_srValue (p : Params) (d : Dev) : srRxne (srValue p d) = decide (0 < d.rxFifo.length) := by
  rw [srRxne, srValue_getLsbD]; simp
@[simp] theorem srRxfull_srValue (p : Params) (d : Dev) :
    srRxfull (srValue p d) = (d.rxFifo.length == fifoDepth p) := by
  rw [srRxfull, srValue_getLsbD]; simp
@[simp] theorem srTxuf_srValue (p : Params) (d : Dev) : srTxuf (srValue p d) = d.txuf := by
  rw [srTxuf, srValue_getLsbD]; simp

theorem srValue_getLsbD_high (p : Params) (d : Dev) {j : Nat} (hj : 7 ≤ j) : (srValue p d).getLsbD j = false := by
  have h : j ≠ 0 ∧ j ≠ 1 ∧ j ≠ 2 ∧ j ≠ 3 ∧ j ≠ 4 ∧ j ≠ 5 ∧ j ≠ 6 := by omega
  simp [srValue_getLsbD, h]

/-- The interrupt line is high exactly when some pending bit is unmasked (R57). -/
theorem irqLine_iff (p : Params) (d : Dev) :
    irqLine p d = true ↔ ∃ j, (srValue p d).getLsbD j = true ∧ d.imr.getLsbD j = true := by
  have hbit : ∀ j, (srValue p d &&& d.imr.setWidth 32).getLsbD j = ((srValue p d).getLsbD j && d.imr.getLsbD j) := by
    intro j
    rw [BitVec.getLsbD_and, BitVec.getLsbD_setWidth]
    rcases Nat.lt_or_ge j 7 with hj | hj
    · simp [show j < 32 by omega]
    · simp [srValue_getLsbD_high p d hj]
  simp only [irqLine, bne_iff_ne, ne_eq]
  constructor
  · intro hne
    by_contra hno
    push Not at hno
    refine hne (BitVec.eq_of_getLsbD_eq fun j _ => ?_)
    rw [hbit]
    simpa using hno j
  · rintro ⟨j, hs, hm⟩ he
    have hj := hbit j
    simp [he, hs, hm] at hj

/-- Settles O37: bit by bit, with the write's three sticky flags read off `clearSticky`. -/
theorem statusRegisterAccess : Obligations.StatusRegisterAccess := by
  unfold Obligations.StatusRegisterAccess
  intro s v
  refine ⟨by simp, by simp, by simp, by simp, by simp, by simp, by simp,
    fun j hj => srValue_getLsbD_high _ _ hj, irqLine_iff _ _, rfl, ?_⟩
  have hflag : ∀ f b : Bool, (f && !b) = if b then false else f := by decide
  simp only [writeReg, clearSticky, srRxovr, srModf, srTxuf, hflag]

/-! ### The reset state -/

/-- The status register of a power-on block has TXRDY alone, whatever the FIFO depth is (R56, R64). -/
theorem srValue_reset (p : Params) : srValue p Dev.reset = 0x04#32 := by
  have htx : (0 == fifoDepth p) = false := by simp [fifoDepth]
  simp [srValue, Dev.reset, htx, flagAt]

/-- Settles O52: a power-on block masks every source, and at reset nothing is running, registered or selected. -/
theorem resetIsTheLaunchState : Obligations.ResetIsTheLaunchState := by
  unfold Obligations.ResetIsTheLaunchState
  have hirq : irqLine State.reset.params State.reset.dev = false := by
    simp [irqLine, State.reset, Dev.reset]
  refine ⟨⟨rfl, rfl, rfl, rfl, rfl, rfl⟩, srValue_reset _, hirq, rfl, rfl, rfl, ?_, ?_, ?_, ?_, ?_, ?_, ?_, ?_⟩
  · exact ⟨List.Pairwise.nil, nofun⟩
  · exact ⟨by decide, Nat.zero_le _, Nat.zero_le _, nofun⟩
  · unfold SelectOk; decide
  · exact ⟨nofun, nofun⟩
  · exact ⟨rfl, nofun⟩
  · exact ⟨nofun, nofun, fun _ => rfl⟩
  · exact ⟨rfl, rfl⟩
  · exact ⟨fun _ => ⟨rfl, rfl⟩, fun _ => ⟨rfl, rfl⟩⟩

end Sys2Proof.Machine
end

section
/-! SUPPORT. Runs of lines that hold both ways the statements speak of a command: with no step of another agent between the lines,
from any state of the device, and as the command's meaning where no other agent can step (notes/assumptions/1.md). -/

namespace Sys2Proof.Machine

/-! ### No interrupt is raised -/

theorem Undisturbed.otherEnabled {s : State} (h : Undisturbed s) : otherEnabled s = false := by
  obtain ⟨hen, hirq⟩ := h.eqs
  simp [otherEnabled_eq, hen, hirq]

/-- Where the device stays disabled and the interrupt line does not rise, no agent comes to disturb. -/
theorem Undisturbed.of_irqLine {s t : State} (h : Undisturbed s) (hp : t.params = s.params) (hen : t.dev.en = false)
    (hirq : irqLine s.params s.dev = false → irqLine s.params t.dev = false) : Undisturbed t := by
  refine ⟨hen, ?_⟩
  rw [hp]
  exact h.2.imp_left hirq

/-- Clearing sticky flags does not raise the interrupt line (R57, R90). -/
theorem irqLine_clearSticky {p : Params} {d : Dev} (v : Word) (h : irqLine p d = false) :
    irqLine p (clearSticky v d) = false := by
  rw [Bool.eq_false_iff] at h ⊢
  refine fun hc => h ?_
  rw [irqLine_iff] at hc ⊢
  obtain ⟨j, hs, hm⟩ := hc
  refine ⟨j, ?_, hm⟩
  rw [srValue_getLsbD] at hs ⊢
  simp only [clearSticky, Bool.or_eq_true, Bool.and_eq_true] at hs ⊢
  have hflag : ∀ {f g k : Prop}, (f ∧ g) ∧ k → f ∧ k := fun h => ⟨h.1.1, h.2⟩
  exact hs.imp (Or.imp_left <| Or.imp_left <| Or.imp_left <| Or.imp_left <| Or.imp hflag hflag) hflag

/-- Popping a byte of a FIFO that holds at most `D` does not raise it either (R56, R57). -/
theorem irqLine_popRx {p : Params} {d : Dev} {b : Byte} {rest : List Byte} (hb : d.rxFifo = b :: rest)
    (hd : d.rxFifo.length ≤ fifoDepth p) (h : irqLine p d = false) : irqLine p { d with rxFifo := rest } = false := by
  rw [irqLine_eq] at h ⊢
  rw [hb] at h hd
  exact irqOf_pop hd h

/-! ### Runs -/

/-- `n` lines of an agent lead from `s` to `t`; where `s` is undisturbed and the side condition `C` holds, so they do with the
other agents watching, and `t` is undisturbed. -/
structure Runs (C : Prop) (a : Agent) (n : Nat) (s t : State) : Prop where
  params : t.params = s.params
  lines : ∀ m, runLines a (n + m) s = runLines a m t
  ahead : C → Undisturbed s → Undisturbed t ∧ ∀ m, runAhead a (n + m) s = runAhead a m t

theorem Runs.trans {C : Prop} {a : Agent} {m n : Nat} {s t u : State} (h₁ : Runs C a m s t) (h₂ : Runs C a n t u) :
    Runs C a (m + n) s u where
  params := h₂.params.trans h₁.params
  lines k := by rw [Nat.add_assoc, h₁.lines, h₂.lines]
  ahead hC hs := by
    obtain ⟨ht, ha₁⟩ := h₁.ahead hC hs
    obtain ⟨hu, ha₂⟩ := h₂.ahead hC ht
    exact ⟨hu, fun k => by rw [Nat.add_assoc, ha₁, ha₂]⟩

/-- One line that disturbs nothing. -/
theorem Runs.line {C : Prop} {a : Agent} {s t : State} (hr : running a s = true) (hl : lineStep a s = .next t)
    (hq : C → Undisturbed s → Undisturbed t) : Runs C a 1 s t where
  params := (lineStep_frame hl).params
  lines m := by rw [Nat.add_comm, runLines_line hr hl]
  ahead hC hs := ⟨hq hC hs, fun m => by rw [Nat.add_comm, runAhead_line hr hs.otherEnabled hl]⟩

/-- One line that leaves the register block alone. -/
theorem Runs.quiet {C : Prop} {a : Agent} {s t : State} (hr : running a s = true) (hl : lineStep a s = .next t)
    (hd : t.dev = s.dev) : Runs C a 1 s t :=
  .line hr hl fun _ hs => hs.of_irqLine (lineStep_frame hl).params (hd ▸ hs.1) (by rw [hd]; exact id)

/-- One line of a Host command that leaves the register block alone. -/
theorem Runs.hostLine {C : Prop} {l : HostLine} {s t : State} (hp : s.hostPc = .line l) (h : hostLine l s = .next t)
    (hd : t.dev = s.dev) : Runs C .host 1 s t :=
  .quiet (by simp [running, hp]) (by simp [lineStep, hostStep, hp, h]) hd

/-- One line that leaves the device disabled and does not raise the interrupt line. -/
theorem Runs.calm {C : Prop} {a : Agent} {s t : State} (hr : running a s = true) (hl : lineStep a s = .next t)
    (hen : s.dev.en = false → t.dev.en = false)
    (hirq : C → irqLine s.params s.dev = false → irqLine s.params t.dev = false) : Runs C a 1 s t :=
  .line hr hl fun hC hs => hs.of_irqLine (lineStep_frame hl).params (hen hs.1) (hirq hC)

/-! ### Commands -/

/-- Where no other agent can step, a free Host's command is its lines from the first on. -/
theorem issue_undisturbed {o : HostOps} {l : HostLine} {s : State} (hf : HostFree s) (hs : Undisturbed s) :
    issue o l s = runAhead .host (aheadBound s + 1) (started o l s) := by
  have ho : otherEnabled (started o l s) = false := Undisturbed.otherEnabled (s := started o l s) hs
  have hr : running .host (started o l s) = true := rfl
  simp [issue, hf.1, hf.2, runAhead, hr, ho, lineStep]

/-- A run of a command's lines that ends with its return is the command both ways, where it is no longer than what is run at
once. -/
theorem command_of_runs {C : Prop} {i : Instr} {l : HostLine} {n : Nat} {s t : State} (hl : firstLine i = some l)
    (hi : exec i s = issue (operands i) l s) (h : Runs C .host n (started (operands i) l s) t) (ht : t.hostPc = .idle)
    (hn : n ≤ aheadBound s + 1) :
    (∃ n, commandLines i n s = .next t) ∧ (HostFree s → Undisturbed s → C → exec i s = .next t) := by
  refine ⟨⟨n, ?_⟩, fun hf hs hC => ?_⟩
  · simp only [commandLines, hl]
    exact h.lines 0
  · obtain ⟨m, hm⟩ := Nat.exists_eq_add_of_le hn
    rw [hi, issue_undisturbed hf hs, hm, (h.ahead hC hs).2]
    exact runAhead_stop (.inl (by simp [running, ht])) m

/-! ### `AbortSeq` -/

theorem running_host_sub {c : HostLine} {q : SubLine} {s : State} (h : s.hostPc = .sub c q) :
    running .host s = true := by
  simp [running, h]

theorem lineStep_host_sub {c : HostLine} {q : SubLine} {s : State} (h : s.hostPc = .sub c q) :
    lineStep .host s = subLine .host q s := by
  simp [lineStep, hostStep, h]

/-- `A3` and `A4`: the drain loop goes on at `A5` where the RX FIFO holds a byte, else it ends at `A7` (R260). -/
theorem abortPoll_runs {C : Prop} {c : HostLine} {s : State} (hp : s.hostPc = .sub c .a3) :
    ∃ t, Runs C .host 2 s t ∧ t.hostPc = .sub c (if s.dev.rxFifo = [] then .a7 else .a5) ∧ t.engine = s.engine ∧
      t.dev = s.dev ∧ t.mem = s.mem := by
  obtain ⟨u, hu⟩ : ∃ u, goSub .host .a4 (setSr .host (srValue s.params s.dev)
      (log (.rdReg Config.offSr (srValue s.params s.dev)) s)) = u := ⟨_, rfl⟩
  have h3 : lineStep .host s = .next u := by rw [lineStep_host_sub hp, ← hu]; rfl
  have hup : u.hostPc = .sub c .a4 := by rw [← hu]; exact goSub_hostPc_sub (by simpa using hp) _
  have hsr : u.hostLoc.sr = srValue s.params s.dev := by simp [← hu]
  have hud : u.dev = s.dev := by simp [← hu]
  have h4 : lineStep .host u = .next (goSub .host (if s.dev.rxFifo = [] then .a7 else .a5) u) := by
    rw [lineStep_host_sub hup]
    rcases hrx : s.dev.rxFifo with _ | ⟨b, rest⟩ <;> simp [subLine, abortA4, hsr, hrx]
  refine ⟨_, (Runs.quiet (running_host_sub hp) h3 hud).trans (.quiet (running_host_sub hup) h4 (by simp)),
    goSub_hostPc_sub hup _, ?_, ?_, ?_⟩ <;> simp [← hu]

/-- `A5` and `A6`: one byte is popped. -/
theorem abortPop_runs {C : Prop} {c : HostLine} {s : State} {b : Byte} {rest : List Byte} (hp : s.hostPc = .sub c .a5)
    (hb : s.dev.rxFifo = b :: rest) (hC : C → s.dev.rxFifo.length ≤ fifoDepth s.params) :
    ∃ t, Runs C .host 2 s t ∧ t.hostPc = .sub c .a3 ∧ t.engine = s.engine ∧ t.dev = { s.dev with rxFifo := rest } ∧
      t.mem = s.mem := by
  obtain ⟨u, hu⟩ : ∃ u, goSub .host .a6 (log (.rdReg Config.offRxd (b.setWidth 32))
      { s with dev := { s.dev with rxFifo := rest } }) = u := ⟨_, rfl⟩
  have h5 : lineStep .host s = .next u := by
    rw [lineStep_host_sub hp, ← hu, subLine, abortA5, regRead_rxd_cons hb]
  have hup : u.hostPc = .sub c .a6 := by rw [← hu]; exact goSub_hostPc_sub (by simpa using hp) _
  have hud : u.dev = { s.dev with rxFifo := rest } := by simp [← hu]
  have h6 : lineStep .host u = .next (goSub .host .a3 u) := by rw [lineStep_host_sub hup]; rfl
  have hpop : Runs C .host 1 s u :=
    .calm (running_host_sub hp) h5 (fun hen => by rw [hud]; exact hen)
      (fun hc hirq => by rw [hud]; exact irqLine_popRx hb (hC hc) hirq)
  refine ⟨_, hpop.trans (.quiet (running_host_sub hup) h6 (by simp)), goSub_hostPc_sub hup _, ?_, ?_, ?_⟩ <;> simp [← hu]

/-- The drain loop ends with the RX FIFO empty, by induction on the bytes in it (R261). -/
theorem abortDrain_runs {C : Prop} {c : HostLine} {rx : List Byte} {s : State} (hp : s.hostPc = .sub c .a3)
    (hrx : s.dev.rxFifo = rx) (hC : C → rx.length ≤ fifoDepth s.params) :
    ∃ t, Runs C .host (4 * rx.length + 2) s t ∧ t.hostPc = .sub c .a7 ∧ t.engine = s.engine ∧
      t.dev = { s.dev with rxFifo := [] } ∧ t.mem = s.mem := by
  induction rx generalizing s with
  | nil =>
    obtain ⟨t, hrun, htp, hte, htd, htm⟩ := abortPoll_runs (C := C) hp
    exact ⟨t, hrun, by simpa [hrx] using htp, hte, by rw [htd, ← hrx], htm⟩
  | cons b rest ih =>
    obtain ⟨t, hrun, htp, hte, htd, htm⟩ := abortPoll_runs (C := C) hp
    obtain ⟨u, hrun', hup, hue, hud, hum⟩ := abortPop_runs (C := C) (b := b) (rest := rest)
      (by simpa [hrx] using htp) (by rw [htd, hrx]) (fun hc => by rw [htd, hrx, hrun.params]; exact hC hc)
    obtain ⟨v, hrun'', hvp, hve, hvd, hvm⟩ := ih hup (by rw [hud]) (fun hc => by
      have hle := hC hc
      rw [hrun'.params, hrun.params]
      simp only [List.length_cons] at hle
      omega)
    refine ⟨v, ?_, hvp, by rw [hve, hue, hte], by rw [hvd, hud, htd], by rw [hvm, hum, htm]⟩
    have hlen : 4 * (b :: rest).length + 2 = 2 + 2 + (4 * rest.length + 2) := by simp only [List.length_cons]; omega
    rw [hlen]
    exact (hrun.trans hrun').trans hrun''

/-- What `AbortSeq` leaves of the engine, the register block and the memory (R260 to R263). -/
structure Aborted (s t : State) : Prop where
  engine : t.engine = { s.engine with isBusy := false, requestedBytes := 0#32, remainingBytes := 0#32 }
  dev : t.dev = { s.dev with en := false, startArmed := false, rxFifo := [], modf := false }
  mem : t.mem = s.mem

/-- `A7` to `A9`: MODF is cleared, the counters and the busy flag are reset, and the caller goes on. -/
theorem abortEnd_runs {C : Prop} {c : HostLine} {s : State} (hp : s.hostPc = .sub c .a7) :
    ∃ t, Runs C .host 3 s t ∧ t.hostPc = .line (afterHostCall c) ∧
      t.engine = { s.engine with isBusy := false, requestedBytes := 0#32, remainingBytes := 0#32 } ∧
      t.dev = { s.dev with modf := false } ∧ t.mem = s.mem := by
  obtain ⟨u, hu⟩ : ∃ u, goSub .host .a8 (log (.wrReg Config.offSr Config.bModf)
      { s with dev := writeReg .sr Config.bModf s.dev }) = u := ⟨_, rfl⟩
  have h7 : lineStep .host s = .next u := by rw [lineStep_host_sub hp, ← hu]; rfl
  have hup : u.hostPc = .sub c .a8 := by rw [← hu]; exact goSub_hostPc_sub (by simpa using hp) _
  have hud : u.dev = clearSticky Config.bModf s.dev := by simp [← hu, writeReg]
  obtain ⟨v, hv⟩ : ∃ v, goSub .host .a9
      { u with engine := { u.engine with requestedBytes := 0#32, remainingBytes := 0#32 } } = v := ⟨_, rfl⟩
  have h8 : lineStep .host u = .next v := by rw [lineStep_host_sub hup, ← hv]; rfl
  have hvp : v.hostPc = .sub c .a9 := by rw [← hv]; exact goSub_hostPc_sub (by simpa using hup) _
  have h9 : lineStep .host v = .next (returnToCaller .host (setBusy false v)) := by rw [lineStep_host_sub hvp]; rfl
  have hclear : Runs C .host 1 s u :=
    .calm (running_host_sub hp) h7 (fun hen => by rw [hud]; exact hen)
      (fun _ hirq => by rw [hud]; exact irqLine_clearSticky _ hirq)
  have hmodf : clearSticky Config.bModf s.dev = { s.dev with modf := false } := by
    simp [clearSticky, srRxovr, srModf, srTxuf, Config.bModf]
  refine ⟨_, hclear.trans ((Runs.quiet (running_host_sub hup) h8 (by simp [← hv])).trans
    (.quiet (running_host_sub hvp) h9 (by simp))), returnToCaller_hostPc_sub (by simpa using hvp), ?_, ?_, ?_⟩
  · simp [← hv, ← hu]
  · simp [← hv, hud, hmodf]
  · simp [← hv, ← hu]

/-- A Host line that calls `AbortSeq` runs it and comes to the line after it, from any state of the device. -/
theorem abortSeq_runs {C : Prop} {l : HostLine} {s : State} (hp : s.hostPc = .line l)
    (hcall : hostLine l s = callSub .host .a2 s) (hC : C → s.dev.rxFifo.length ≤ fifoDepth s.params) :
    ∃ t, Runs C .host (4 * s.dev.rxFifo.length + 6) s t ∧ t.hostPc = .line (afterHostCall l) ∧ Aborted s t := by
  obtain ⟨u, hu⟩ : ∃ u, goSub .host .a3 (log (.wrReg Config.offEr 0#32)
      { goSub .host .a2 s with dev := writeReg .er 0#32 (goSub .host .a2 s).dev }) = u := ⟨_, rfl⟩
  have h2 : lineStep .host s = .next u := by simp only [lineStep, hostStep, hp, hcall, ← hu]; rfl
  have hup : u.hostPc = .sub l .a3 := by rw [← hu]; exact goSub_hostPc_sub (by simpa using goSub_hostPc_line hp _) _
  have hud : u.dev = { s.dev with en := false, startArmed := false } := by simp [← hu, writeReg]
  have hdisable : Runs C .host 1 s u :=
    .calm (by simp [running, hp]) h2 (fun _ => by rw [hud]) (fun _ hirq => by rw [hud]; exact hirq)
  obtain ⟨v, hrun, hvp, hve, hvd, hvm⟩ :=
    abortDrain_runs (C := C) hup (by rw [hud]) (fun hc => by rw [hdisable.params]; exact hC hc)
  obtain ⟨t, hrun', htp, hte, htd, htm⟩ := abortEnd_runs (C := C) hvp
  refine ⟨t, ?_, htp, ?_, ?_, ?_⟩
  · rw [show 4 * s.dev.rxFifo.length + 6 = 1 + (4 * s.dev.rxFifo.length + 2) + 3 by omega]
    exact (hdisable.trans hrun).trans hrun'
  · rw [hte, hve, ← hu]; simp
  · rw [htd, hvd, hud]
  · rw [htm, hvm, ← hu]; simp

/-- The line that writes `CR_RESET` over the control register, and the return after it (R265, R270). -/
theorem crReset_runs {C : Prop} {l l' : HostLine} {k : Command} {v : Option Word} {s : State} (hp : s.hostPc = .line l)
    (hl : hostLine l = fun s => regWrite Config.offCr Config.crReset s fun s => .next (goHost l' s))
    (hl' : hostLine l' = fun s => .next (hostReturn k v s)) (hen : s.dev.en = false) :
    ∃ t, Runs C .host 2 s t ∧ t.hostPc = .idle ∧ t.engine = s.engine ∧ t.dev = { s.dev with cr := Config.crReset } ∧
      t.mem = s.mem ∧ t.trace.getLast? = some (.ret k v) := by
  obtain ⟨u, hu⟩ : ∃ u, goHost l' (log (.wrReg Config.offCr Config.crReset)
      { s with dev := writeReg .cr Config.crReset s.dev }) = u := ⟨_, rfl⟩
  have hwrite : lineStep .host s = .next u := by simp only [lineStep, hostStep, hp, hl, ← hu, regWrite_cr]
  have hup : u.hostPc = .line l' := by simp [← hu]
  have hud : u.dev = { s.dev with cr := Config.crReset } := by simp [← hu, writeReg, hen]
  have hreturn : lineStep .host u = .next (hostReturn k v u) := by simp only [lineStep, hostStep, hup, hl']
  have hcr : Runs C .host 1 s u :=
    .calm (by simp [running, hp]) hwrite (fun hen => by rw [hud]; exact hen) (fun _ hirq => by rw [hud]; exact hirq)
  refine ⟨_, hcr.trans (.quiet (by simp [running, hup]) hreturn rfl), rfl, ?_, ?_, ?_, ?_⟩ <;> simp [hud]
  · simp [← hu]
  · simp [← hu]

/-! ### `RESET` and `INIT` -/

/-- Settles O20: `X1`, then `AbortSeq`, then the write of `CR` and the return, as one run. -/
theorem resetRestoresControl : Obligations.ResetRestoresControl := by
  unfold Obligations.ResetRestoresControl
  intro s hready
  obtain ⟨s₁, hs₁⟩ : ∃ s₁, goHost (.reset .x2) (started HostOps.none (.reset .x1) s) = s₁ := ⟨_, rfl⟩
  have hx1 : Runs (BlockOk s) .host 1 (started HostOps.none (.reset .x1) s) s₁ :=
    .hostLine rfl (by simp [hostLine, resetLine, checkReady, hready, hs₁]) (by simp [← hs₁])
  obtain ⟨u, habort, hup, hu⟩ := abortSeq_runs (C := BlockOk s) (l := .reset .x2) (s := s₁) (by simp [← hs₁]) rfl
    (fun hb => by rw [← hs₁]; exact hb.2.2.1)
  obtain ⟨t, hcr, htp, hte, htd, htm, htr⟩ := crReset_runs (C := BlockOk s) (l' := .reset .x4) hup rfl rfl (by rw [hu.dev])
  have hrun := (hx1.trans habort).trans hcr
  have hlen : s₁.dev.rxFifo.length = s.dev.rxFifo.length := by simp [← hs₁]
  obtain ⟨hlines, hexec⟩ := command_of_runs (i := .reset) rfl rfl hrun htp (by simp only [aheadBound]; omega)
  refine ⟨t, hlines, hexec, ?_, ?_, ?_, htp, htr⟩
  · rw [hte, hu.engine, ← hs₁]; simp
  · rw [htd, hu.dev, ← hs₁]; simp
  · rw [htm, hu.mem, ← hs₁]; simp

/-- `I1` to `I7`: an idle engine with an aligned base is bound and made ready, with no register access (R270, R271). -/
theorem initBind_runs {C : Prop} {s : State} {base : Word} (hbusy : s.engine.isBusy = false) (hbase : base.toNat % 4 = 0) :
    ∃ t, Runs C .host 7 (started (initOps base) (.init .i1) s) t ∧ t.hostPc = .line (.init .i8) ∧
      t.engine = { s.engine with
        baseAddress := base
        isReady := true
        sendBuffer := none
        recvBuffer := none
        requestedBytes := 0#32
        remainingBytes := 0#32
        slaveSelect := enc Config.ssNone
        statusCallback := .stub
        callbackContext := 0#32 } ∧ t.dev = s.dev ∧ t.mem = s.mem := by
  obtain ⟨s₁, hs₁⟩ : ∃ s₁, goHost (.init .i2) (started (initOps base) (.init .i1) s) = s₁ := ⟨_, rfl⟩
  have hops : (initOps base).base = base := rfl
  have hi1 : Runs C .host 1 (started (initOps base) (.init .i1) s) s₁ :=
    .hostLine rfl (by simp [hostLine, initLine, hops, hbase, hs₁]) (by simp [← hs₁])
  have hi2 : Runs C .host 1 s₁ (goHost (.init .i3) s₁) :=
    .hostLine (l := .init .i2) (by simp [← hs₁]) (by simp [hostLine, initLine, hbusy, ← hs₁]) rfl
  have hbind := (Runs.hostLine (C := C) (l := .init .i3) (s := goHost (.init .i3) s₁) rfl rfl rfl).trans <|
    (Runs.hostLine (l := .init .i4) rfl rfl rfl).trans <| (Runs.hostLine (l := .init .i5) rfl rfl rfl).trans <|
    (Runs.hostLine (l := .init .i6) rfl rfl rfl).trans <| Runs.hostLine (l := .init .i7) rfl rfl rfl
  exact ⟨_, (hi1.trans hi2).trans hbind, rfl, by simp [← hs₁, initOps], by simp [← hs₁], by simp [← hs₁]⟩

/-- Settles O15: the binding lines, then `AbortSeq`, then the write of `CR` and the return, as one run. -/
theorem initBindsInstance : Obligations.InitBindsInstance := by
  unfold Obligations.InitBindsInstance
  intro s base hbusy hbase
  obtain ⟨s₁, hbind, hp₁, he₁, hd₁, hm₁⟩ := initBind_runs (C := BlockOk s) hbusy hbase
  obtain ⟨u, habort, hup, hu⟩ := abortSeq_runs (C := BlockOk s) hp₁ rfl
    (fun hb => by rw [hd₁, hbind.params]; exact hb.2.2.1)
  obtain ⟨t, hcr, htp, hte, htd, htm, htr⟩ := crReset_runs (C := BlockOk s) (l' := .init .i10) hup rfl rfl (by rw [hu.dev])
  have hrun := (hbind.trans habort).trans hcr
  obtain ⟨hlines, hexec⟩ := command_of_runs (i := .init base) rfl rfl hrun htp (by simp only [aheadBound, hd₁]; omega)
  refine ⟨t, hlines, hexec, ?_, ?_, ?_, htp, htr⟩
  · rw [hte, hu.engine, he₁]
  · rw [htd, hu.dev, hd₁]
  · rw [htm, hu.mem, hm₁]

end Sys2Proof.Machine
end

section
/-! SUPPORT. Buffer memory (R81, R85): stores of several bytes, the one line that writes memory, and the canonical form that
every step keeps. -/

namespace Sys2Proof.Machine

/-! ### Stores of several bytes -/

/-- A store leaves every address outside its range alone. -/
theorem read_storeBytes_other (m : List Host.Cell) {a b : Nat} (bytes : List Byte) (h : b < a ∨ a + bytes.length ≤ b) :
    Memory.read (storeBytes m a bytes) b = Memory.read m b := by
  induction bytes generalizing m a with
  | nil => rfl
  | cons v bytes ih =>
    simp only [List.length_cons] at h
    rw [storeBytes, ih _ (by omega), Memory.read_write_other _ _ (by omega)]

/-- The first of a range of bytes, and the rest. -/
theorem bytesAt_succ (m : List Host.Cell) (a n : Nat) :
    bytesAt m a (n + 1) = Memory.read m a :: bytesAt m (a + 1) n := by
  simp [bytesAt, List.range_succ_eq_map, Nat.add_assoc, Nat.add_comm 1]

/-- The bytes stored are the bytes read back. -/
theorem bytesAt_storeBytes {m : List Host.Cell} {a : Nat} {bytes : List Byte} (hm : Memory.wf m)
    (ha : a + bytes.length ≤ Config.addressLimit) : bytesAt (storeBytes m a bytes) a bytes.length = bytes := by
  induction bytes generalizing m a with
  | nil => rfl
  | cons v bytes ih =>
    simp only [List.length_cons] at ha
    have hwf : Memory.wf (Memory.write m a v) := Memory.write_wf hm (by omega) v
    rw [List.length_cons, bytesAt_succ, storeBytes, ih hwf (by omega), read_storeBytes_other _ _ (by omega),
      Memory.read_write_same hm]

/-! ### The line that writes memory -/

/-- A line leaves memory alone, or is `D4` and writes the drained byte at the receive cursor, an address that exists. -/
theorem lineStep_mem {a : Agent} {s t : State} (h : lineStep a s = .next t) :
    t.mem = s.mem ∨ (AtStore a s ∧ ∃ r, s.engine.recvBuffer = some r ∧ r < Config.addressLimit ∧
      t.mem = Memory.write s.mem r (locals a s).b) := by
  cases lineStep_effect h with
  | quiet he hd hm => exact .inl hm
  | pop b rest hb he hd hm => exact .inl hm
  | write r v ho he hd hm => exact .inl hm
  | store addr hp hr ha hb he hd hm => exact .inr ⟨hp, addr, hr, ha, hm⟩
  | engine he hd hm => exact .inl hm

theorem lineStep_memoryOk {a : Agent} {s t : State} (hs : MemoryOk s) (h : lineStep a s = .next t) : MemoryOk t := by
  unfold MemoryOk at *
  rcases lineStep_mem h with hm | ⟨-, r, -, ha, hm⟩
  · rwa [hm]
  · rw [hm]; exact Memory.write_wf hs ha _

theorem closed_memoryOk : Closed MemoryOk where
  draw s h := by simpa [MemoryOk] using h
  take _ _ h := h
  issued _ _ _ _ _ h := h
  entry _ h _ := h
  line _ _ _ h _ hl := lineStep_memoryOk h hl
  master b s h _ := by simpa [MemoryOk] using h
  slave i m s h _ := by simpa [MemoryOk] using h
  fault _ h _ := h

/-- Settles O53: the canonical form is closed under every kind of step; of them only `D4` writes, inside the address space. -/
theorem stepKeepsMemoryCanonical : Obligations.StepKeepsMemoryCanonical := by
  unfold Obligations.StepKeepsMemoryCanonical
  exact fun _ _ hs h => closed_memoryOk.step hs h

/-- Settles O59: the laws of one write carry over to a store by induction on its bytes; `D4` is the one line that writes. -/
theorem onlyDrainWritesMemory : Obligations.OnlyDrainWritesMemory := by
  unfold Obligations.OnlyDrainWritesMemory
  refine ⟨fun m a v hm => ⟨Memory.read_write_same hm a v, fun b hb => Memory.read_write_other m v hb⟩,
    fun m a bytes hm ha => ⟨bytesAt_storeBytes hm ha, fun b hb => read_storeBytes_other m bytes hb⟩, fun a s t h => ?_⟩
  exact (lineStep_mem h).imp_right fun ⟨hp, r, hr, _, hm⟩ => ⟨hp, r, hr, hm⟩

end Sys2Proof.Machine
end

section
/-! SUPPORT. The registers' accesses (R88 to R95), the accesses and issues that are refused (R96, R101, R331, R335). -/

namespace Sys2Proof.Machine

/-! ### The control register -/

/-- The bits of the control register that are stored: 17 and 15:0 (R89, R135). -/
theorem crStored_getLsbD (v : Word) (j : Nat) :
    (crStored v).getLsbD j = (v.getLsbD j && decide (j < 18) && decide (j ≠ 16)) := by
  rw [crStored, BitVec.getLsbD_and, Bool.and_assoc]
  congr 1
  rcases Nat.lt_or_ge j 18 with hj | hj
  · interval_cases j <;> decide
  · have hlt : Config.crStoredMask.toNat < 2 ^ j := lt_of_lt_of_le (by decide) (Nat.pow_le_pow_right (by decide) hj)
    rw [BitVec.getLsbD, Nat.testBit_lt_two_pow hlt]
    simp; omega

/-- Settles O38: the stored bits of the value read and of the value written, and the four bits that arm a start. -/
theorem controlRegisterAccess : Obligations.ControlRegisterAccess := by
  unfold Obligations.ControlRegisterAccess
  intro s v
  exact ⟨rfl, crStored_getLsbD s.dev.cr, crStored_getLsbD v, rfl, rfl⟩

/-! ### The mask and the enable register -/

theorem unmask_getLsbD (v : Word) (imr : BitVec 7) {j : Nat} (hj : j < 7) :
    (unmask v imr).getLsbD j = (imr.getLsbD j || v.getLsbD j) := by
  simp [unmask, hj]

theorem mask_getLsbD (v : Word) (imr : BitVec 7) {j : Nat} (hj : j < 7) :
    (mask v imr).getLsbD j = (imr.getLsbD j && !v.getLsbD j) := by
  simp [mask, hj]

/-- Settles O39: the mask bit by bit, the enable as a bit of its own. -/
theorem maskAndEnableAccess : Obligations.MaskAndEnableAccess := by
  unfold Obligations.MaskAndEnableAccess
  intro s v
  have hread : (BitVec.ofBool s.dev.en).setWidth 32 = if s.dev.en then 1#32 else 0#32 := by cases s.dev.en <;> rfl
  have harmed : (s.dev.startArmed && v.getLsbD 0) = if v.getLsbD 0 then s.dev.startArmed else false := by
    cases v.getLsbD 0 <;> simp
  exact ⟨fun j hj => unmask_getLsbD v _ hj, fun j hj => mask_getLsbD v _ hj, rfl, rfl, rfl, rfl, rfl, rfl,
    by rw [readReg, hread], by rw [writeReg, harmed]⟩

/-! ### The FIFO registers -/

/-- Settles O40: a push by what `TXD` has room for, a pop by what `RXD` holds. -/
theorem fifoRegisterAccess : Obligations.FifoRegisterAccess := by
  unfold Obligations.FifoRegisterAccess
  intro s v k
  refine ⟨fun hroom => ?_, fun hfull => ?_, fun b rest hb => ?_, fun hempty => ?_, fun _ => rfl, rfl, rfl⟩
  · rw [regWrite_txd, if_neg (by omega)]
  · rw [regWrite_txd, if_pos hfull.ge]
  · simp only [readReg, hb]
  · exact ⟨⟨Config.emptyRxByte s.tick, by simp only [readReg, hempty]⟩, by simp only [readReg, hempty]⟩

/-! ### Unmapped offsets -/

theorem regAt_unmapped {off : Word}
    (h : off ∉ [0x00#32, 0x04#32, 0x08#32, 0x0C#32, 0x10#32, 0x14#32, 0x1C#32, 0x20#32]) : regAt off = none := by
  simp only [List.mem_cons, List.not_mem_nil, or_false, not_or] at h
  simp [regAt, Config.offCr, Config.offSr, Config.offIer, Config.offIdr, Config.offImr, Config.offEr, Config.offTxd,
    Config.offRxd, h]

/-- A buffer read is never the refusal of an unmapped offset, where what follows it is not. -/
theorem memRead_mapped {a : Nat} {s : State} {k : Byte → State → Result} (hk : ∀ b s, k b s ≠ .refused .unmappedOffset) :
    memRead a s k ≠ .refused .unmappedOffset := by
  unfold memRead
  split
  · simp
  · split
    · simp
    · exact hk _ _

theorem memWrite_mapped {a : Nat} {v : Byte} {s : State} {k : State → Result}
    (hk : ∀ s, k s ≠ .refused .unmappedOffset) : memWrite a v s k ≠ .refused .unmappedOffset := by
  unfold memWrite
  split
  · simp
  · split
    · simp
    · exact hk _

theorem regRead_rxd_mapped {s : State} {k : Word → State → Result} (hk : ∀ v s, k v s ≠ .refused .unmappedOffset) :
    regRead Config.offRxd s k ≠ .refused .unmappedOffset :=
  hk _ _

theorem regWrite_txd_mapped {v : Word} {s : State} {k : State → Result} (hk : ∀ s, k s ≠ .refused .unmappedOffset) :
    regWrite Config.offTxd v s k ≠ .refused .unmappedOffset := by
  rw [regWrite_txd]
  split
  · simp
  · exact hk _

theorem callback_mapped {kind : EventKind} {count : Word} {s : State} {k : State → Result}
    (hk : ∀ s, k s ≠ .refused .unmappedOffset) : callback kind count s k ≠ .refused .unmappedOffset := by
  unfold callback
  split
  · simp
  · exact hk _

theorem diff_mapped {s : State} {k : Word → Result} (hk : ∀ v, k v ≠ .refused .unmappedOffset) :
    diff s k ≠ .refused .unmappedOffset := by
  unfold diff
  split
  · simp
  · exact hk _

theorem checkReady_mapped {s : State} {r : Result} (hr : r ≠ .refused .unmappedOffset) :
    checkReady s r ≠ .refused .unmappedOffset := by
  unfold checkReady
  split
  · exact hr
  · simp

theorem subLine_mapped (a : Agent) (q : SubLine) (s : State) : subLine a q s ≠ .refused .unmappedOffset := by
  cases q <;> simp only [subLine, fillF1, fillF2, fillF3, fillF4, fillF5, fillF6, fillF7, drainD1, drainD2, drainD3,
    drainD4, drainD5, drainD6, drainD7, startM1, startM2, startM3, deassertC1, deassertC2, deassertC3, abortA2, abortA3,
    abortA4, abortA5, abortA6, abortA7, abortA8, abortA9, regWrite_cr, regWrite_sr, regWrite_er, readCrLocal_eq,
    readSrLocal_eq]
  case f3 =>
    split
    · simp
    · exact memRead_mapped fun _ _ => by simp
  case f4 => exact regWrite_txd_mapped fun _ => by simp
  case d2 | a5 => exact regRead_rxd_mapped fun _ _ => by simp
  case d4 =>
    split
    · simp
    · exact memWrite_mapped fun _ => by simp
  case f2 | f6 | d1 | d3 | d6 | m2 | c2 | a4 => split <;> simp
  all_goals simp

theorem hostLine_mapped (l : HostLine) (s : State) : hostLine l s ≠ .refused .unmappedOffset := by
  cases l with
  | init l =>
    cases l <;> simp only [hostLine, initLine, regWrite_cr]
    case i8 => exact subLine_mapped _ _ _
    case i1 | i2 => split <;> simp
    all_goals simp
  | setStatusHandler l =>
    cases l <;> simp only [hostLine, setStatusHandlerLine]
    case k1 => exact checkReady_mapped (by simp)
    case k2 => split <;> simp
    all_goals simp
  | setSs l =>
    cases l <;> simp only [hostLine, setSsLine, readCrLocal_eq, writeSelect_eq]
    case s1 => exact checkReady_mapped (by simp)
    case s2 | s3 => split <;> simp
    all_goals simp
  | getSs l =>
    cases l <;> simp only [hostLine, getSsLine]
    case g1 => exact checkReady_mapped (by simp)
    case g2 => simp
  | polled l =>
    cases l <;> simp only [hostLine, polledLine, readCrLocal_eq, readSrLocal_eq, writeSelect_eq, regWrite_er]
    case p1 => exact checkReady_mapped (by simp)
    case p14 | p15 | p18 | p20 => exact subLine_mapped _ _ _
    case p2 | p3 | p4 | p5 | p10 | p13 | p17 => split <;> simp
    all_goals simp
  | transfer l =>
    cases l <;> simp only [hostLine, transferLine, readCrLocal_eq, writeSelect_eq, regWrite_er, regWrite_sr, regWrite_ier]
    case t1 => exact checkReady_mapped (by simp)
    case t13 | t16 => exact subLine_mapped _ _ _
    case t2 | t3 | t4 | t5 | t10 => split <;> simp
    all_goals simp
  | abort l =>
    cases l <;> simp only [hostLine, abortLine]
    case a1 => exact checkReady_mapped (by simp)
    case a2 => exact subLine_mapped _ _ _
    case a10 => simp
  | reset l =>
    cases l <;> simp only [hostLine, resetLine, regWrite_cr]
    case x1 => exact checkReady_mapped (by simp)
    case x2 => exact subLine_mapped _ _ _
    all_goals simp
  | configure l =>
    cases l <;> simp only [hostLine, configureLine, readCrLocal_eq, regWrite_cr]
    case n1 => exact checkReady_mapped (by simp)
    case n2 => split <;> simp
    all_goals simp

theorem handlerLine_mapped (l : HandlerLine) (s : State) : handlerLine l s ≠ .refused .unmappedOffset := by
  cases l <;> simp only [handlerLine, readSrLocal_eq, regWrite_sr, regWrite_idr, regWrite_ier, regWrite_er]
  case h6 | h10 | h11 | h14 | h19 | h23 | h28 => exact subLine_mapped _ _ _
  case h5 | h9 | h21 | h26 => exact diff_mapped fun _ => by simp
  case h7 | h17 | h24 | h29 => exact callback_mapped fun _ => by simp
  case h4 | h8 | h12 | h20 | h25 => split <;> simp
  all_goals simp

/-- Settles O36: the offsets of the registers are all there are, and every line's accesses are at offsets of registers. -/
theorem unmappedOffsetNeverAccessed : Obligations.UnmappedOffsetNeverAccessed := by
  unfold Obligations.UnmappedOffsetNeverAccessed
  refine ⟨fun off v s k k' h => ?_, fun a s => ?_⟩
  · simp [regRead, regWrite, regAt_unmapped h]
  · cases a
    · simp only [lineStep, hostStep]
      split
      · simp
      · exact hostLine_mapped _ _
      · exact subLine_mapped _ _ _
    · simp only [lineStep, handlerStep]
      split
      · exact handlerLine_mapped _ _
      · exact subLine_mapped _ _ _

/-! ### Refused issues -/

theorem issue_reentry {s : State} (h : s.handlerActive = true) (o : HostOps) (l : HostLine) :
    issue o l s = .refused .callbackReentry := by
  simp [issue, h]

theorem issue_inProgress {s : State} (h : s.handlerActive = false) (hp : s.hostPc ≠ .idle) (o : HostOps) (l : HostLine) :
    issue o l s = .refused .commandInProgress := by
  simp [issue, h, hp]

theorem issueTransfer_clear {s : State} {o : HostOps} (h : inRegisterBlock s.engine o = false) (l : HostLine) :
    issueTransfer o l s = issue o l s := by
  simp [issueTransfer, h]

/-- A Host command whose buffers meet no register block is issued with its operands at its first line. -/
theorem exec_issue {s : State} {i : Instr} (hi : hostCommand i = true)
    (hclear : ∀ txv rxv send recv count,
      i = .polledTransfer txv rxv send recv count ∨ i = .transfer txv rxv send recv count →
      inRegisterBlock s.engine (transferOps txv rxv send recv count) = false) :
    ∃ l, exec i s = issue (operands i) l s := by
  cases i with
  | irq => simp [hostCommand] at hi
  | polledTransfer txv rxv send recv count =>
    exact ⟨_, issueTransfer_clear (hclear _ _ _ _ _ (.inl rfl)) _⟩
  | transfer txv rxv send recv count =>
    exact ⟨_, issueTransfer_clear (hclear _ _ _ _ _ (.inr rfl)) _⟩
  | _ => exact ⟨_, rfl⟩

/-- A present buffer that meets the block of an initialised engine refuses the transfer (R331). -/
theorem inRegisterBlock_of_meets {e : Engine} {txv rxv : Bool} {send recv count : Word} (hr : e.isReady = true)
    (h : (txv = true ∧ meetsBlock e.baseAddress send.toNat count.toNat = true) ∨
      (rxv = true ∧ meetsBlock e.baseAddress recv.toNat count.toNat = true)) :
    inRegisterBlock e (transferOps txv rxv send recv count) = true := by
  rcases h with ⟨rfl, h⟩ | ⟨rfl, h⟩ <;>
    simp [inRegisterBlock, hr, transferOps, bufferOperand, bufferMeetsBlock, h]

/-- Settles O34: the three refusals in the order the model takes them. -/
theorem unsupportedIssuesRefused : Obligations.UnsupportedIssuesRefused := by
  unfold Obligations.UnsupportedIssuesRefused
  refine ⟨fun s txv rxv send recv count hr hmeets => ?_, fun s i hi hclear => ?_⟩
  · have hblock := inRegisterBlock_of_meets hr hmeets
    simp [exec, execPolledTransfer, execTransfer, issueTransfer, hblock]
  · obtain ⟨l, hl⟩ := exec_issue hi hclear
    rw [hl]
    exact ⟨fun ha => issue_reentry ha _ _, fun ha hp => issue_inProgress ha hp _ _⟩

end Sys2Proof.Machine
end

section
/-! SUPPORT. An agent's lines followed by what they work on (R45 to R48, R180): a run of lines leads from a state to a place of the
agent, with the engine, the register block, the memory and the agent's locals there, and the callbacks on the way. -/

namespace Sys2Proof.Machine

/-! ### Places -/

/-- A line of either sequencer. -/
inductive AgentLine where
  | host (l : HostLine)
  | handler (l : HandlerLine)

/-- Whose line it is. -/
def AgentLine.agent : AgentLine → Agent
  | .host _ => .host
  | .handler _ => .handler

/-- The line after the call a line makes (R180). -/
def AgentLine.next : AgentLine → AgentLine
  | .host l => .host (afterHostCall l)
  | .handler l => .handler (afterHandlerCall l)

@[simp] theorem AgentLine.next_agent (c : AgentLine) : c.next.agent = c.agent := by cases c <;> rfl

/-- The sub-sequence a line calls (R180). -/
def AgentLine.calls : AgentLine → Option SubSequence
  | .host l => hostCalls l
  | .handler l => handlerCalls l

/-- The first line of a sub-sequence (R180). -/
def SubSequence.first : SubSequence → SubLine
  | .fill => .f1
  | .drain => .d1
  | .startIfManual => .m1
  | .deassertIfManual => .c1
  | .abortSeq => .a2

/-- The agent stands at a line. -/
def AgentLine.StandsAt (c : AgentLine) (s : State) : Prop :=
  match c with
  | .host l => s.hostPc = .line l
  | .handler l => s.handlerActive = true ∧ s.handlerPc = .line l

/-- The agent stands inside the sub-sequence that a line called. -/
def AgentLine.StandsIn (c : AgentLine) (q : SubLine) (s : State) : Prop :=
  match c with
  | .host l => s.hostPc = .sub l q
  | .handler l => s.handlerActive = true ∧ s.handlerPc = .sub l q

/-- Which line of a run comes next: a line of the agent's own list, or a line of the sub-sequence that one called. -/
inductive Place where
  | line (c : AgentLine)
  | sub (c : AgentLine) (q : SubLine)

def Place.agent : Place → Agent
  | .line c => c.agent
  | .sub c _ => c.agent

/-- At the calling line the first line of the sub-sequence comes next (notes/assumptions/22.md). -/
def Place.Holds (p : Place) (s : State) : Prop :=
  match p with
  | .line c => c.StandsAt s
  | .sub c q => c.StandsIn q s ∨ (c.StandsAt s ∧ c.calls = some q.sequence ∧ q = q.sequence.first)

/-- Both sequencers stand where they stood, and the Handler is active or not as it was. -/
structure SamePlace (s t : State) : Prop where
  hostPc : t.hostPc = s.hostPc
  handlerPc : t.handlerPc = s.handlerPc
  handlerActive : t.handlerActive = s.handlerActive

theorem SamePlace.refl (s : State) : SamePlace s s := ⟨rfl, rfl, rfl⟩

theorem AgentLine.StandsAt.running {c : AgentLine} {s : State} (h : c.StandsAt s) : running c.agent s = true := by
  cases c with
  | host l => simp [Machine.running, AgentLine.agent, show s.hostPc = .line l from h]
  | handler l => exact h.1

theorem AgentLine.StandsIn.running {c : AgentLine} {q : SubLine} {s : State} (h : c.StandsIn q s) :
    running c.agent s = true := by
  cases c with
  | host l => simp [Machine.running, AgentLine.agent, show s.hostPc = .sub l q from h]
  | handler l => exact h.1

theorem AgentLine.StandsIn.goSub {c : AgentLine} {q : SubLine} {s u : State} (h : c.StandsIn q s) (hu : SamePlace s u)
    (q' : SubLine) : c.StandsIn q' (goSub c.agent q' u) := by
  cases c with
  | host l => exact goSub_hostPc_sub (hu.hostPc.trans h) q'
  | handler l =>
    exact ⟨by simpa [hu.handlerActive] using h.1, goSub_handlerPc_sub (hu.handlerPc.trans h.2) q'⟩

theorem AgentLine.StandsIn.returnToCaller {c : AgentLine} {q : SubLine} {s u : State} (h : c.StandsIn q s)
    (hu : SamePlace s u) : c.next.StandsAt (returnToCaller c.agent u) := by
  cases c with
  | host l => exact returnToCaller_hostPc_sub (hu.hostPc.trans h)
  | handler l =>
    exact ⟨by simpa [hu.handlerActive] using h.1, returnToCaller_handlerPc_sub (hu.handlerPc.trans h.2)⟩

theorem AgentLine.StandsIn.lineStep {c : AgentLine} {q : SubLine} {s : State} (h : c.StandsIn q s) :
    lineStep c.agent s = subLine c.agent q s := by
  cases c with
  | host l => exact lineStep_host_sub h
  | handler l => simp [Machine.lineStep, handlerStep, AgentLine.agent, h.2]

/-- A line that calls a sub-sequence runs its first line. -/
theorem AgentLine.StandsAt.lineStep_call {c : AgentLine} {q : SubSequence} {s : State} (h : c.StandsAt s)
    (hq : c.calls = some q) : lineStep c.agent s = callSub c.agent q.first s := by
  cases c with
  | host l =>
    have hl : s.hostPc = .line l := h
    simp only [Machine.lineStep, AgentLine.agent, hostStep, hl]
    rcases l with l | l | l | l | l | l | l | l | l <;> cases l <;> cases hq <;> rfl
  | handler l =>
    simp only [Machine.lineStep, AgentLine.agent, handlerStep, h.2]
    cases l <;> cases hq <;> rfl

/-- Whether the agent stands at the call or inside it, its next line is the sub-sequence's line from inside. -/
theorem Place.Holds.subLine {c : AgentLine} {q : SubLine} {s : State} (h : (Place.sub c q).Holds s) :
    running c.agent s = true ∧ lineStep c.agent s = subLine c.agent q (goSub c.agent q s) ∧
      c.StandsIn q (goSub c.agent q s) := by
  rcases h with h | ⟨h, hc, hq⟩
  · have hs : goSub c.agent q s = s := by
      cases c with
      | host l => simp only [goSub, AgentLine.agent, show s.hostPc = .sub l q from h]; rw [← show s.hostPc = .sub l q from h]
      | handler l => simp only [goSub, AgentLine.agent, h.2]; rw [← h.2]
    rw [hs]
    exact ⟨h.running, h.lineStep, h⟩
  · refine ⟨h.running, by rw [h.lineStep_call hc, ← hq]; rfl, ?_⟩
    cases c with
    | host l => exact goSub_hostPc_line h q
    | handler l => exact ⟨by simpa using h.1, goSub_handlerPc_line h.2 q⟩

/-! ### What the lines work on -/

/-- The engine, the register block, the memory and an agent's locals. -/
structure View where
  engine : Engine
  dev : Dev
  mem : List Host.Cell
  loc : Locals

def view (a : Agent) (s : State) : View := ⟨s.engine, s.dev, s.mem, locals a s⟩

@[simp] theorem view_goSub (a : Agent) (q : SubLine) (s : State) : view a (goSub a q s) = view a s := by simp [view]
@[simp] theorem view_returnToCaller (a : Agent) (s : State) : view a (returnToCaller a s) = view a s := by simp [view]
@[simp] theorem view_goHandler (l : HandlerLine) (s : State) : view .handler (goHandler l s) = view .handler s := rfl

/-- Events were added, of them these callbacks; and, where `last` is set, none after the last of these. -/
def Reports (calls : List Event) (last : Bool) (s t : State) : Prop :=
  ∃ events, t.trace = s.trace ++ events ∧ events.filter isCallback = calls ∧
    (last = true → events.getLast? = calls.getLast?)

theorem Reports.refl (s : State) : Reports [] true s s := ⟨[], by simp⟩

theorem Reports.silent {calls : List Event} {last : Bool} {s t u : State} (h : Reports calls last s t)
    (hu : u.trace = t.trace) : Reports calls last s u := by
  obtain ⟨events, ht, hc, hl⟩ := h
  exact ⟨events, hu.trans ht, hc, hl⟩

theorem Reports.quiet {calls : List Event} {last : Bool} {s t u : State} (h : Reports calls last s t)
    (hu : Reports [] false t u) : Reports calls false s u := by
  obtain ⟨events, ht, hc, -⟩ := h
  obtain ⟨events', hu, hc', -⟩ := hu
  exact ⟨events ++ events', by rw [hu, ht, List.append_assoc], by rw [List.filter_append, hc, hc', List.append_nil], nofun⟩

theorem Reports.call {calls : List Event} {last : Bool} {s t u : State} {e : Event} (h : Reports calls last s t)
    (he : isCallback e = true) (hu : u.trace = t.trace ++ [e]) : Reports (calls ++ [e]) true s u := by
  obtain ⟨events, ht, hc, -⟩ := h
  exact ⟨events ++ [e], by rw [hu, ht, List.append_assoc], by simp [hc, he], by simp⟩

theorem readReg_trace (r : Reg) (s : State) : (readReg r s).2.trace = s.trace := by
  rcases readReg_state r s with h | h | ⟨b, rest, -, h⟩ <;> rw [h]

/-- No line of a sub-sequence issues a callback. -/
theorem subLine_reports {a : Agent} {q : SubLine} {s t : State} (h : subLine a q s = .next t) : Reports [] false s t := by
  have hquiet : ∀ {e : Event}, t.trace = s.trace ++ [e] → notCallback e = true → Reports [] false s t :=
    fun {e} ht he => ⟨[e], ht, by simp [isCallback, he], nofun⟩
  have hsilent : t.trace = s.trace → Reports [] false s t := fun ht => ⟨[], by simpa using ht, rfl, nofun⟩
  cases q <;> simp only [subLine, fillF1, fillF2, fillF3, fillF4, fillF5, fillF6, fillF7, drainD1, drainD2, drainD3,
    drainD4, drainD5, drainD6, drainD7, startM1, startM2, startM3, deassertC1, deassertC2, deassertC3, abortA2, abortA3,
    abortA4, abortA5, abortA6, abortA7, abortA8, abortA9, regWrite_cr, regWrite_sr, regWrite_er, readCrLocal_eq,
    readSrLocal_eq] at h
  case f3 =>
    split at h
    · cases h
    · obtain ⟨-, -, h⟩ := memRead_next h
      cases h; exact hquiet (by simp; rfl) rfl
  case f4 =>
    rw [regWrite_txd] at h
    split at h <;> cases h
    exact hquiet (by simp; rfl) rfl
  case d2 | a5 => cases h; exact hquiet (by simp [readReg_trace]; rfl) rfl
  case d4 =>
    split at h
    · cases h; exact hsilent (by simp)
    · obtain ⟨-, -, h⟩ := memWrite_next h
      cases h; exact hquiet (by simp; rfl) rfl
  case m1 | m3 | c1 | c3 | a2 | a3 | a7 => cases h; exact hquiet (by simp; rfl) rfl
  case f2 | f6 | d1 | d3 | d6 | m2 | c2 | a4 => split at h <;> cases h <;> exact hsilent (by simp)
  all_goals cases h; exact hsilent (by simp)

/-! ### Reaching a place -/

/-- Lines of the agent lead from `s₀` to a place, with no step of another agent between them, where the agent sees `v`. -/
def Reaches (s₀ : State) (calls : List Event) (last : Bool) (p : Place) (v : View) : Prop :=
  ∃ n s, Runs False p.agent n s₀ s ∧ Reports calls last s₀ s ∧ p.Holds s ∧ view p.agent s = v

section

variable {s₀ : State} {calls : List Event} {last : Bool} {c : AgentLine} {p : Place} {v v' : View}

theorem Reaches.start {s : State} (h : p.Holds s) : Reaches s [] true p (view p.agent s) :=
  ⟨0, s, ⟨rfl, fun m => by rw [Nat.zero_add], nofun⟩, .refl s, h, rfl⟩

theorem Reaches.cast (h : Reaches s₀ calls last p v) (hv : v = v') : Reaches s₀ calls last p v' := hv ▸ h

theorem Reaches.castCalls {calls' : List Event} (h : Reaches s₀ calls last p v) (hc : calls = calls') :
    Reaches s₀ calls' last p v := hc ▸ h

/-- What was reached is reached by that many lines. -/
theorem Reaches.lines (h : Reaches s₀ calls last p v) :
    ∃ n s, runLines p.agent n s₀ = .next s ∧ Reports calls last s₀ s ∧ p.Holds s ∧ view p.agent s = v := by
  obtain ⟨n, s, hrun, hrep, hp, hv⟩ := h
  exact ⟨n, s, hrun.lines 0, hrep, hp, hv⟩

/-- A line that calls a sub-sequence: its first line comes next. -/
theorem Reaches.call {q : SubSequence} (h : Reaches s₀ calls last (.line c) v) (hq : c.calls = some q) :
    Reaches s₀ calls last (.sub c q.first) v := by
  obtain ⟨n, s, hrun, hrep, hp, hv⟩ := h
  have hfirst : q.first.sequence = q := by cases q <;> rfl
  exact ⟨n, s, hrun, hrep, .inr ⟨hp, by rw [hfirst, hq], by rw [hfirst]⟩, hv⟩

/-- One line inside a sub-sequence, which goes on at another of its lines and may draw what it leaves there. -/
theorem Reaches.inside_some {α : Type} {q q' : SubLine} {w : α → View} {P : α → Prop}
    (h : Reaches s₀ calls last (.sub c q) v)
    (hline : ∀ s, s.params = s₀.params → view c.agent s = v →
      ∃ x u, P x ∧ subLine c.agent q s = .next (goSub c.agent q' u) ∧ SamePlace s u ∧ view c.agent u = w x) :
    ∃ x, P x ∧ Reaches s₀ calls false (.sub c q') (w x) := by
  obtain ⟨n, s, hrun, hrep, hp, hv⟩ := h
  obtain ⟨hr, hl, hin⟩ := hp.subLine
  obtain ⟨x, u, hx, hu, hplace, hv'⟩ := hline (goSub c.agent q s) (by simpa using hrun.params) ((view_goSub _ _ _).trans hv)
  have hstep : Runs False c.agent 1 s (goSub c.agent q' u) := .line hr (hl.trans hu) nofun
  have hquiet : Reports [] false s (goSub c.agent q' u) := by simpa [Reports] using subLine_reports hu
  exact ⟨x, hx, _, _, hrun.trans hstep, hrep.quiet hquiet, .inl (hin.goSub hplace q'), by simpa [Place.agent] using hv'⟩

/-- One line inside a sub-sequence, which goes on at another of its lines. -/
theorem Reaches.inside {q q' : SubLine} (h : Reaches s₀ calls last (.sub c q) v)
    (hline : ∀ s, s.params = s₀.params → view c.agent s = v →
      ∃ u, subLine c.agent q s = .next (goSub c.agent q' u) ∧ SamePlace s u ∧ view c.agent u = v') :
    Reaches s₀ calls false (.sub c q') v' := by
  obtain ⟨-, -, h'⟩ := h.inside_some (w := fun _ : Unit => v') (P := fun _ => True)
    fun s hs hv => let ⟨u, hu⟩ := hline s hs hv; ⟨(), u, trivial, hu⟩
  exact h'

/-- One line inside a sub-sequence, which returns. -/
theorem Reaches.back {q : SubLine} (h : Reaches s₀ calls last (.sub c q) v)
    (hline : ∀ s, s.params = s₀.params → view c.agent s = v →
      ∃ u, subLine c.agent q s = .next (returnToCaller c.agent u) ∧ SamePlace s u ∧ view c.agent u = v') :
    Reaches s₀ calls false (.line c.next) v' := by
  obtain ⟨n, s, hrun, hrep, hp, hv⟩ := h
  obtain ⟨hr, hl, hin⟩ := hp.subLine
  obtain ⟨u, hu, hplace, hv'⟩ := hline (goSub c.agent q s) (by simpa using hrun.params) ((view_goSub _ _ _).trans hv)
  have hstep : Runs False c.agent 1 s (returnToCaller c.agent u) := .line hr (hl.trans hu) nofun
  have hquiet : Reports [] false s (returnToCaller c.agent u) := by simpa [Reports] using subLine_reports hu
  refine ⟨n + 1, returnToCaller c.agent u, ?_, hrep.quiet hquiet, hin.returnToCaller hplace, ?_⟩
  · simpa only [Place.agent, AgentLine.next_agent] using hrun.trans hstep
  · simpa [Place.agent] using hv'

end

end Sys2Proof.Machine
end

section
/-! SUPPORT. The four sub-sequences of a transfer, line by line and as a whole (R181, R183, R185, R186). -/

namespace Sys2Proof.Machine

/-! ### Buffers -/

/-- A clear buffer: its first byte can be accessed, and the rest is clear. -/
theorem BufferClear.succ {e : Engine} {a n : Nat} (h : BufferClear e a (n + 1)) :
    a < Config.addressLimit ∧ inBlock e a = false ∧ BufferClear e (a + 1) n := by
  obtain ⟨hlimit, hblock⟩ := h
  refine ⟨by omega, hblock 0 (by omega), by omega, fun i hi => ?_⟩
  rw [Nat.add_assoc, Nat.add_comm 1]
  exact hblock (i + 1) (by omega)

/-- Memory with drained bytes stored from the receive cursor on; as it was, without one (R183). -/
def storeAt (recv : Option Nat) (m : List Host.Cell) (bytes : List Byte) : List Host.Cell :=
  recv.elim m fun r => storeBytes m r bytes

theorem drainedMemory_eq (s : State) (k : Nat) (drawn : List Byte) :
    drainedMemory s k drawn = storeAt s.engine.recvBuffer s.mem (s.dev.rxFifo.take k ++ drawn) := by
  unfold drainedMemory storeAt
  cases s.engine.recvBuffer <;> rfl

@[simp] theorem storeAt_nil (recv : Option Nat) (m : List Host.Cell) : storeAt recv m [] = m := by
  cases recv <;> rfl

theorem storeAt_cons (recv : Option Nat) (m : List Host.Cell) (b : Byte) (bytes : List Byte) :
    storeAt recv m (b :: bytes) = storeAt (recv.map (· + 1)) (storeAt recv m [b]) bytes := by
  cases recv <;> rfl

/-- The control register after `DeassertIfManual` (R186). -/
def crAfterDeassert (cr : Word) : Word := if crManualCs cr then crDeasserted cr else cr

/-! ### What the lines with an access do -/

/-- `F4` queues the byte read, where the TX FIFO has room (R94). -/
theorem subLine_f4 {a : Agent} {s : State} (hroom : s.dev.txFifo.length < fifoDepth s.params) :
    subLine a .f4 s = .next (goSub a .f5 (log (.wrReg Config.offTxd ((locals a s).b.setWidth 32))
      { s with dev := { s.dev with txFifo := s.dev.txFifo ++ [(locals a s).b] } })) := by
  simp [subLine, fillF4, regWrite_txd, Nat.not_le.2 hroom]

/-- `D2` pops the head of the RX FIFO, or draws a byte past its end (R95). -/
theorem subLine_d2 (a : Agent) (s : State) :
    ∃ b u, (∀ x ∈ s.dev.rxFifo.head?, x = b) ∧ subLine a .d2 s = .next (goSub a .d3 u) ∧ SamePlace s u ∧
      view a u = { view a s with
        dev := { s.dev with rxFifo := s.dev.rxFifo.tail }, loc := { locals a s with b := b } } := by
  rcases hrx : s.dev.rxFifo with _ | ⟨b, rest⟩
  · have hdev : { s.dev with rxFifo := [].tail } = s.dev := by rw [List.tail_nil, ← hrx]
    refine ⟨Config.emptyRxByte s.tick, _, by simp,
      by simp only [subLine, drainD2, regRead_rxd_nil hrx]; rfl, by constructor <;> simp, ?_⟩
    rw [hdev]
    cases a <;> simp [view]
  · refine ⟨b, _, by simp, by simp only [subLine, drainD2, regRead_rxd_cons hrx]; rfl, by constructor <;> simp, ?_⟩
    cases a <;> simp [view]

section

variable {s₀ : State} {calls : List Event} {last : Bool} {c : AgentLine} {v : View}

/-! ### The lines of `Fill` -/

theorem Reaches.fillF1 (h : Reaches s₀ calls last (.line c) v) (hc : c.calls = some .fill) :
    Reaches s₀ calls false (.sub c .f2) { v with loc := { v.loc with k := 0#32 } } :=
  (h.call hc).inside fun s _ hv => by
    subst hv
    exact ⟨_, rfl, by constructor <;> simp, by cases c <;> rfl⟩

theorem Reaches.fillF2_stop (h : Reaches s₀ calls last (.sub c .f2) v)
    (hstop : v.engine.remainingBytes = 0#32 ∨ v.loc.k.toNat = fifoDepth s₀.params) :
    Reaches s₀ calls false (.line c.next) v :=
  h.back fun s hp hv => by
    subst hv
    rw [← hp] at hstop
    exact ⟨s, if_pos hstop, .refl s, rfl⟩

theorem Reaches.fillF2 (h : Reaches s₀ calls last (.sub c .f2) v) (hrem : v.engine.remainingBytes ≠ 0#32)
    (hk : v.loc.k.toNat ≠ fifoDepth s₀.params) : Reaches s₀ calls false (.sub c .f3) v :=
  h.inside fun s hp hv => by
    subst hv
    rw [← hp] at hk
    exact ⟨s, if_neg (not_or.2 ⟨hrem, hk⟩), .refl s, rfl⟩

theorem Reaches.fillF3 {addr : Nat} (h : Reaches s₀ calls last (.sub c .f3) v) (hsend : v.engine.sendBuffer = some addr)
    (haddr : addr < Config.addressLimit) (hblock : inBlock v.engine addr = false) :
    Reaches s₀ calls false (.sub c .f4) { v with loc := { v.loc with b := Memory.read v.mem addr } } :=
  h.inside fun s _ hv => by
    subst hv
    refine ⟨setB c.agent (Memory.read s.mem addr) (log (.rdMem addr (Memory.read s.mem addr)) s), ?_,
      by constructor <;> simp, by cases c <;> rfl⟩
    simp only [subLine, Machine.fillF3, show s.engine.sendBuffer = some addr from hsend, memRead_ok haddr hblock]

theorem Reaches.fillF4 (h : Reaches s₀ calls last (.sub c .f4) v) (hroom : v.dev.txFifo.length < fifoDepth s₀.params) :
    Reaches s₀ calls false (.sub c .f5) { v with dev := { v.dev with txFifo := v.dev.txFifo ++ [v.loc.b] } } :=
  h.inside fun s hp hv => by
    subst hv
    rw [← hp] at hroom
    exact ⟨_, subLine_f4 hroom, by constructor <;> simp, by cases c <;> rfl⟩

theorem Reaches.fillF5 (h : Reaches s₀ calls last (.sub c .f5) v) :
    Reaches s₀ calls false (.sub c .f6)
      { v with engine := { v.engine with sendBuffer := v.engine.sendBuffer.map (· + 1) } } :=
  h.inside fun s _ hv => by
    subst hv
    exact ⟨_, rfl, by constructor <;> simp, by cases c <;> rfl⟩

theorem Reaches.fillF6 (h : Reaches s₀ calls last (.sub c .f6) v) (hrem : v.engine.remainingBytes ≠ 0#32) :
    Reaches s₀ calls false (.sub c .f7)
      { v with engine := { v.engine with remainingBytes := v.engine.remainingBytes - 1#32 } } :=
  h.inside fun s _ hv => by
    subst hv
    exact ⟨_, if_neg hrem, by constructor <;> simp, by cases c <;> rfl⟩

theorem Reaches.fillF7 (h : Reaches s₀ calls last (.sub c .f7) v) :
    Reaches s₀ calls false (.sub c .f2) { v with loc := { v.loc with k := v.loc.k + 1#32 } } :=
  h.inside fun s _ hv => by
    subst hv
    exact ⟨_, rfl, by constructor <;> simp, by cases c <;> rfl⟩

/-! ### The lines of `Drain` -/

theorem Reaches.drainD1_stop (h : Reaches s₀ calls last (.sub c .d1) v) (hk : v.loc.k = 0#32) :
    Reaches s₀ calls false (.line c.next) v :=
  h.back fun s _ hv => by
    subst hv
    exact ⟨s, if_pos hk, .refl s, rfl⟩

theorem Reaches.drainD1 (h : Reaches s₀ calls last (.sub c .d1) v) (hk : v.loc.k ≠ 0#32) :
    Reaches s₀ calls false (.sub c .d2) v :=
  h.inside fun s _ hv => by
    subst hv
    exact ⟨s, if_neg hk, .refl s, rfl⟩

/-- `D2` pops the head of the RX FIFO, or draws a byte past its end (R95). -/
theorem Reaches.drainD2 (h : Reaches s₀ calls last (.sub c .d2) v) :
    ∃ b, (∀ x ∈ v.dev.rxFifo.head?, x = b) ∧ Reaches s₀ calls false (.sub c .d3)
      { v with dev := { v.dev with rxFifo := v.dev.rxFifo.tail }, loc := { v.loc with b := b } } :=
  h.inside_some fun s _ hv => by
    subst hv
    obtain ⟨b, u, hb, hu, hplace, hv⟩ := subLine_d2 c.agent s
    exact ⟨b, u, hb, hu, hplace, hv⟩

theorem Reaches.drainD5 (h : Reaches s₀ calls last (.sub c .d5) v) :
    Reaches s₀ calls false (.sub c .d6)
      { v with engine := { v.engine with recvBuffer := v.engine.recvBuffer.map (· + 1) } } :=
  h.inside fun s _ hv => by
    subst hv
    exact ⟨_, rfl, by constructor <;> simp, by cases c <;> rfl⟩

/-- `D3` to `D5`: the byte is stored at the receive cursor, which moves on, or discarded without one. -/
theorem Reaches.drainStore (h : Reaches s₀ calls last (.sub c .d3) v)
    (hrecv : ∀ r, v.engine.recvBuffer = some r → r < Config.addressLimit ∧ inBlock v.engine r = false) :
    Reaches s₀ calls false (.sub c .d6) { v with
      engine := { v.engine with recvBuffer := v.engine.recvBuffer.map (· + 1) }
      mem := storeAt v.engine.recvBuffer v.mem [v.loc.b] } := by
  rcases hr : v.engine.recvBuffer with _ | r
  · have hengine : { v.engine with recvBuffer := none } = v.engine := by rw [← hr]
    have h6 : Reaches s₀ calls false (.sub c .d6) v := h.inside fun s _ hv => by
      subst hv
      have hr' : s.engine.recvBuffer = none := hr
      exact ⟨s, by simp only [subLine, drainD3, hr'], .refl s, rfl⟩
    exact h6.cast (by simp [storeAt, hengine])
  · obtain ⟨haddr, hblock⟩ := hrecv r hr
    have h4 : Reaches s₀ calls false (.sub c .d4) v := h.inside fun s _ hv => by
      subst hv
      have hr' : s.engine.recvBuffer = some r := hr
      exact ⟨s, by simp only [subLine, drainD3, hr'], .refl s, rfl⟩
    have h5 : Reaches s₀ calls false (.sub c .d5) { v with mem := storeAt (some r) v.mem [v.loc.b] } :=
      h4.inside fun s _ hv => by
        subst hv
        have hr' : s.engine.recvBuffer = some r := hr
        exact ⟨_, by simp only [subLine, drainD4, hr', memWrite_ok haddr hblock]; rfl, by constructor <;> simp, by cases c <;> rfl⟩
    exact h5.drainD5.cast (by simp [hr])

theorem Reaches.drainD6 (h : Reaches s₀ calls last (.sub c .d6) v) (hreq : v.engine.requestedBytes ≠ 0#32) :
    Reaches s₀ calls false (.sub c .d7)
      { v with engine := { v.engine with requestedBytes := v.engine.requestedBytes - 1#32 } } :=
  h.inside fun s _ hv => by
    subst hv
    exact ⟨_, if_neg hreq, by constructor <;> simp, by cases c <;> rfl⟩

theorem Reaches.drainD7 (h : Reaches s₀ calls last (.sub c .d7) v) :
    Reaches s₀ calls false (.sub c .d1) { v with loc := { v.loc with k := v.loc.k - 1#32 } } :=
  h.inside fun s _ hv => by
    subst hv
    exact ⟨_, rfl, by constructor <;> simp, by cases c <;> rfl⟩

/-! ### The lines of `StartIfManual` and `DeassertIfManual` -/

theorem Reaches.startM1 (h : Reaches s₀ calls last (.line c) v) (hc : c.calls = some .startIfManual) :
    Reaches s₀ calls false (.sub c .m2) { v with loc := { v.loc with cr := crStored v.dev.cr } } :=
  (h.call hc).inside fun s _ hv => by
    subst hv
    exact ⟨_, readCrLocal_eq _ _ _, by constructor <;> simp, by cases c <;> rfl⟩

theorem Reaches.startM2_stop (h : Reaches s₀ calls last (.sub c .m2) v)
    (hstop : crManstrtEn v.loc.cr = false ∨ crMstren v.loc.cr = false) : Reaches s₀ calls false (.line c.next) v :=
  h.back fun s _ hv => by
    subst hv
    exact ⟨s, if_pos hstop, .refl s, rfl⟩

theorem Reaches.startM2 (h : Reaches s₀ calls last (.sub c .m2) v)
    (hgo : ¬(crManstrtEn v.loc.cr = false ∨ crMstren v.loc.cr = false)) : Reaches s₀ calls false (.sub c .m3) v :=
  h.inside fun s _ hv => by
    subst hv
    exact ⟨s, if_neg hgo, .refl s, rfl⟩

theorem Reaches.startM3 (h : Reaches s₀ calls last (.sub c .m3) v) :
    Reaches s₀ calls false (.line c.next) { v with dev := writeReg .cr (crWithStart v.loc.cr) v.dev } :=
  h.back fun s _ hv => by
    subst hv
    exact ⟨_, rfl, by constructor <;> simp, by cases c <;> rfl⟩

theorem Reaches.deassertC1 (h : Reaches s₀ calls last (.line c) v) (hc : c.calls = some .deassertIfManual) :
    Reaches s₀ calls false (.sub c .c2) { v with loc := { v.loc with cr := crStored v.dev.cr } } :=
  (h.call hc).inside fun s _ hv => by
    subst hv
    exact ⟨_, readCrLocal_eq _ _ _, by constructor <;> simp, by cases c <;> rfl⟩

theorem Reaches.deassertC2_stop (h : Reaches s₀ calls last (.sub c .c2) v) (hstop : crManualCs v.loc.cr = false) :
    Reaches s₀ calls false (.line c.next) v :=
  h.back fun s _ hv => by
    subst hv
    exact ⟨s, if_pos hstop, .refl s, rfl⟩

theorem Reaches.deassertC2 (h : Reaches s₀ calls last (.sub c .c2) v) (hgo : crManualCs v.loc.cr ≠ false) :
    Reaches s₀ calls false (.sub c .c3) v :=
  h.inside fun s _ hv => by
    subst hv
    exact ⟨s, if_neg hgo, .refl s, rfl⟩

theorem Reaches.deassertC3 (h : Reaches s₀ calls last (.sub c .c3) v) :
    Reaches s₀ calls false (.line c.next) { v with dev := writeReg .cr (crDeasserted v.loc.cr) v.dev } :=
  h.back fun s _ hv => by
    subst hv
    exact ⟨_, rfl, by constructor <;> simp, by cases c <;> rfl⟩

/-! ### The sub-sequences as a whole -/

/-- One turn of `Fill`: the byte at the send cursor is queued, and the cursor and the counter move by one. -/
theorem Reaches.fillTurn {addr : Nat} (h : Reaches s₀ calls last (.sub c .f2) v)
    (hrem : v.engine.remainingBytes ≠ 0#32) (hk : v.loc.k.toNat ≠ fifoDepth s₀.params)
    (hsend : v.engine.sendBuffer = some addr) (haddr : addr < Config.addressLimit) (hblock : inBlock v.engine addr = false)
    (hroom : v.dev.txFifo.length < fifoDepth s₀.params) :
    Reaches s₀ calls false (.sub c .f2) { v with
      engine := { v.engine with sendBuffer := some (addr + 1), remainingBytes := v.engine.remainingBytes - 1#32 }
      dev := { v.dev with txFifo := v.dev.txFifo ++ [Memory.read v.mem addr] }
      loc := { v.loc with k := v.loc.k + 1#32, b := Memory.read v.mem addr } } :=
  ((((((h.fillF2 hrem hk).fillF3 hsend haddr hblock).fillF4 hroom).fillF5).fillF6 hrem).fillF7).cast (by simp [hsend])

/-- The turns of `Fill`, by induction on the bytes it queues: to the end of the transfer or to the FIFO depth (R181). -/
theorem Reaches.fillTurns {addr n : Nat} (h : Reaches s₀ calls last (.sub c .f2) v)
    (hn : n ≤ v.engine.remainingBytes.toNat) (hk : v.loc.k.toNat + n < 2 ^ 32)
    (hdepth : v.loc.k.toNat + n ≤ fifoDepth s₀.params)
    (hend : n = v.engine.remainingBytes.toNat ∨ v.loc.k.toNat + n = fifoDepth s₀.params)
    (hsend : v.engine.sendBuffer = some addr) (hclear : BufferClear v.engine addr n)
    (hroom : v.dev.txFifo.length + n ≤ fifoDepth s₀.params) :
    ∃ b, Reaches s₀ calls false (.line c.next) { v with
      engine := { v.engine with
        sendBuffer := some (addr + n)
        remainingBytes := v.engine.remainingBytes - BitVec.ofNat 32 n }
      dev := { v.dev with txFifo := v.dev.txFifo ++ bytesAt v.mem addr n }
      loc := { v.loc with k := v.loc.k + BitVec.ofNat 32 n, b := b } } := by
  induction n generalizing v addr last with
  | zero =>
    have hstop : v.engine.remainingBytes = 0#32 ∨ v.loc.k.toNat = fifoDepth s₀.params :=
      hend.imp (fun h0 => BitVec.eq_of_toNat_eq h0.symm) id
    have hengine : { v.engine with sendBuffer := some addr } = v.engine := by rw [← hsend]
    exact ⟨v.loc.b, (h.fillF2_stop hstop).cast (by simp [bytesAt, hengine])⟩
  | succ n ih =>
    obtain ⟨haddr, hblock, hrest⟩ := hclear.succ
    have hrem : v.engine.remainingBytes ≠ 0#32 := by rintro h0; simp [h0] at hn
    have hrem' : (v.engine.remainingBytes - 1#32).toNat = v.engine.remainingBytes.toNat - 1 := by bv_omega
    have hk' : (v.loc.k + 1#32).toNat = v.loc.k.toNat + 1 := by bv_omega
    obtain ⟨b, h'⟩ := ih (h.fillTurn hrem (by omega) hsend haddr hblock (by omega)) (addr := addr + 1)
      (by simp only [hrem']; omega) (by simp only [hk']; omega) (by simp only [hk']; omega)
      (by simp only [hk', hrem']; omega) rfl hrest (by simp; omega)
    refine ⟨b, h'.cast ?_⟩
    have hcount : 1#32 + BitVec.ofNat 32 n = BitVec.ofNat 32 (n + 1) := by
      rw [Nat.add_comm, BitVec.ofNat_add]
    simp [bytesAt_succ, Nat.add_comm 1, Nat.add_assoc, BitVec.add_assoc, hcount, BitVec.sub_sub]

/-- `Fill` from its call: `min(D, remainingBytes)` bytes of the send buffer are queued (R181, R182). -/
theorem Reaches.fill {addr j : Nat} (h : Reaches s₀ calls last (.line c) v) (hc : c.calls = some .fill)
    (hj : j = min (fifoDepth s₀.params) v.engine.remainingBytes.toNat) (hsend : v.engine.sendBuffer = some addr)
    (hclear : BufferClear v.engine addr j) (hroom : v.dev.txFifo.length + j ≤ fifoDepth s₀.params) :
    ∃ b, Reaches s₀ calls false (.line c.next) { v with
      engine := { v.engine with
        sendBuffer := some (addr + j)
        remainingBytes := v.engine.remainingBytes - BitVec.ofNat 32 j }
      dev := { v.dev with txFifo := v.dev.txFifo ++ bytesAt v.mem addr j }
      loc := { v.loc with k := BitVec.ofNat 32 j, b := b } } := by
  have hlt : v.engine.remainingBytes.toNat < 2 ^ 32 := v.engine.remainingBytes.isLt
  obtain ⟨b, h'⟩ := (h.fillF1 hc).fillTurns (addr := addr) (n := j) (by simp only; omega) (by simp; omega) (by simp; omega)
    (by simp; omega) hsend hclear hroom
  exact ⟨b, h'.cast (by simp)⟩

/-- `Fill` with no bytes left queues nothing, with or without a send buffer. -/
theorem Reaches.fill_nothing (h : Reaches s₀ calls last (.line c) v) (hc : c.calls = some .fill)
    (hrem : v.engine.remainingBytes = 0#32) :
    Reaches s₀ calls false (.line c.next) { v with loc := { v.loc with k := 0#32 } } :=
  (h.fillF1 hc).fillF2_stop (.inl hrem)

/-- One turn of `Drain`: a byte is popped or drawn, stored or discarded, and retired. -/
theorem Reaches.drainTurn (h : Reaches s₀ calls last (.sub c .d1) v) (hk : v.loc.k ≠ 0#32)
    (hreq : v.engine.requestedBytes ≠ 0#32)
    (hrecv : ∀ r, v.engine.recvBuffer = some r → r < Config.addressLimit ∧ inBlock v.engine r = false) :
    ∃ b, (∀ x ∈ v.dev.rxFifo.head?, x = b) ∧ Reaches s₀ calls false (.sub c .d1) { v with
      engine := { v.engine with
        recvBuffer := v.engine.recvBuffer.map (· + 1)
        requestedBytes := v.engine.requestedBytes - 1#32 }
      dev := { v.dev with rxFifo := v.dev.rxFifo.tail }
      mem := storeAt v.engine.recvBuffer v.mem [b]
      loc := { v.loc with k := v.loc.k - 1#32, b := b } } := by
  obtain ⟨b, hb, h3⟩ := (h.drainD1 hk).drainD2
  exact ⟨b, hb, ((h3.drainStore hrecv).drainD6 hreq).drainD7⟩

/-- The turns of `Drain`, by induction on the bytes it retires: those of the RX FIFO, then drawn ones (R95, R183). -/
theorem Reaches.drainTurns {n : Nat} (h : Reaches s₀ calls last (.sub c .d1) v) (hn : v.loc.k.toNat = n)
    (hreq : n ≤ v.engine.requestedBytes.toNat)
    (hclear : ∀ r, v.engine.recvBuffer = some r → BufferClear v.engine r n) :
    ∃ b drawn, drawn.length = n - v.dev.rxFifo.length ∧ Reaches s₀ calls false (.line c.next) { v with
      engine := { v.engine with
        recvBuffer := v.engine.recvBuffer.map (· + n)
        requestedBytes := v.engine.requestedBytes - v.loc.k }
      dev := { v.dev with rxFifo := v.dev.rxFifo.drop n }
      mem := storeAt v.engine.recvBuffer v.mem (v.dev.rxFifo.take n ++ drawn)
      loc := { v.loc with k := 0#32, b := b } } := by
  induction n generalizing v last with
  | zero =>
    have hk : v.loc.k = 0#32 := BitVec.eq_of_toNat_eq hn
    have hloc : { v.loc with k := 0#32 } = v.loc := by rw [← hk]
    exact ⟨v.loc.b, [], by simp, (h.drainD1_stop hk).cast (by simp [hk, hloc])⟩
  | succ n ih =>
    have hk : v.loc.k ≠ 0#32 := by rintro h0; simp [h0] at hn
    have hreq0 : v.engine.requestedBytes ≠ 0#32 := by rintro h0; simp [h0] at hreq
    obtain ⟨b, hb, hturn⟩ := h.drainTurn hk hreq0 fun r hr => ⟨(hclear r hr).succ.1, (hclear r hr).succ.2.1⟩
    obtain ⟨b', drawn, hlen, hrest⟩ := ih hturn (by simp only; bv_omega) (by simp only; bv_omega) (by
      intro r hr
      obtain ⟨r', hr', rfl⟩ := Option.map_eq_some_iff.1 hr
      exact (hclear r' hr').succ.2.2)
    have hbytes : ∃ drawn' : List Byte, drawn'.length = n + 1 - v.dev.rxFifo.length ∧
        b :: (v.dev.rxFifo.tail.take n ++ drawn) = v.dev.rxFifo.take (n + 1) ++ drawn' := by
      rcases hrx : v.dev.rxFifo with _ | ⟨x, rest⟩
      · exact ⟨b :: drawn, by simpa [hrx] using hlen, by simp⟩
      · obtain rfl : x = b := hb x (by simp [hrx])
        exact ⟨drawn, by simpa [hrx] using hlen, by simp⟩
    obtain ⟨drawn', hlen', hstored⟩ := hbytes
    refine ⟨b', drawn', hlen', hrest.cast ?_⟩
    have hcursor : (v.engine.recvBuffer.map (· + 1)).map (· + n) = v.engine.recvBuffer.map (· + (n + 1)) := by
      cases v.engine.recvBuffer <;> simp; omega
    have hcount : v.engine.requestedBytes - 1#32 - (v.loc.k - 1#32) = v.engine.requestedBytes - v.loc.k := by bv_omega
    simp only [hcursor, hcount, ← storeAt_cons, hstored, List.drop_tail]

/-- `Drain` from its call (R183). -/
theorem Reaches.drain (h : Reaches s₀ calls last (.line c) v) (hc : c.calls = some .drain)
    (hreq : v.loc.k.toNat ≤ v.engine.requestedBytes.toNat)
    (hclear : ∀ r, v.engine.recvBuffer = some r → BufferClear v.engine r v.loc.k.toNat) :
    ∃ b drawn, drawn.length = v.loc.k.toNat - v.dev.rxFifo.length ∧ Reaches s₀ calls false (.line c.next) { v with
      engine := { v.engine with
        recvBuffer := v.engine.recvBuffer.map (· + v.loc.k.toNat)
        requestedBytes := v.engine.requestedBytes - v.loc.k }
      dev := { v.dev with rxFifo := v.dev.rxFifo.drop v.loc.k.toNat }
      mem := storeAt v.engine.recvBuffer v.mem (v.dev.rxFifo.take v.loc.k.toNat ++ drawn)
      loc := { v.loc with k := 0#32, b := b } } :=
  (h.call hc).drainTurns rfl hreq hclear

/-- `StartIfManual` from its call: where manual start is configured in master mode, a start is armed on an enabled device
(R185). -/
theorem Reaches.startIfManual (h : Reaches s₀ calls last (.line c) v) (hc : c.calls = some .startIfManual)
    (hcr : crStored v.dev.cr = v.dev.cr) :
    Reaches s₀ calls false (.line c.next) { v with
      dev := { v.dev with
        startArmed := v.dev.startArmed || (crManstrtEn v.dev.cr && crMstren v.dev.cr && v.dev.en) }
      loc := { v.loc with cr := v.dev.cr } } := by
  have h2 := h.startM1 hc
  rw [hcr] at h2
  by_cases hstop : crManstrtEn v.dev.cr = false ∨ crMstren v.dev.cr = false
  · refine (h2.startM2_stop hstop).cast ?_
    rcases hstop with hstop | hstop <;> simp [hstop]
  · refine (h2.startM2 hstop).startM3.cast ?_
    simp [writeReg, hcr]

/-- `DeassertIfManual` from its call: in manual chip-select mode every select line goes high (R186). -/
theorem Reaches.deassertIfManual (h : Reaches s₀ calls last (.line c) v) (hc : c.calls = some .deassertIfManual)
    (hcr : crStored v.dev.cr = v.dev.cr) :
    Reaches s₀ calls false (.line c.next) { v with
      dev := { v.dev with cr := crAfterDeassert v.dev.cr }
      loc := { v.loc with cr := v.dev.cr } } := by
  have h2 := h.deassertC1 hc
  rw [hcr] at h2
  by_cases hstop : crManualCs v.dev.cr = false
  · exact (h2.deassertC2_stop hstop).cast (by simp [crAfterDeassert, hstop])
  · refine (h2.deassertC2 hstop).deassertC3.cast ?_
    have hstored : crStored (crDeasserted v.dev.cr) = crDeasserted v.dev.cr := by
      rw [← hcr, crStored_crDeasserted]
    have harms : crArms v.dev.en (crDeasserted v.dev.cr) = false := by rw [← hcr, crArms_crDeasserted]
    simp [writeReg, hstored, harms, crAfterDeassert, hstop]

end

/-! ### The statements -/

/-- An agent at a call stands at a line that calls the sub-sequence. -/
theorem Calls.line {a : Agent} {q : SubSequence} {s : State} (h : Calls a q s) :
    ∃ c : AgentLine, c.agent = a ∧ c.StandsAt s ∧ c.calls = some q := by
  cases a with
  | host =>
    obtain ⟨l, hl, hq⟩ := h
    exact ⟨.host l, rfl, hl, hq⟩
  | handler =>
    obtain ⟨ha, l, hl, hq⟩ := h
    exact ⟨.handler l, rfl, ⟨ha, hl⟩, hq⟩

theorem AgentLine.StandsAt.returnedFrom {c : AgentLine} {s t : State} (hs : c.StandsAt s) (ht : c.next.StandsAt t) :
    ReturnedFrom c.agent s t := by
  cases c with
  | host l =>
    intro l' hl'
    obtain rfl : l = l' := by simpa [show s.hostPc = .line l from hs] using hl'
    exact ht
  | handler l =>
    intro l' hl'
    obtain rfl : l = l' := by simpa [hs.2] using hl'
    exact ht.2

/-- A sub-sequence run from its call to its return. -/
theorem Reaches.returned {s : State} {calls : List Event} {last : Bool} {c : AgentLine} {v : View}
    (h : Reaches s calls last (.line c.next) v) (hc : c.StandsAt s) :
    ∃ n t, runLines c.agent n s = .next t ∧ ReturnedFrom c.agent s t ∧ view c.agent t = v := by
  obtain ⟨n, t, hlines, -, ht, hv⟩ := h.lines
  simp only [Place.agent, AgentLine.next_agent] at hlines hv
  exact ⟨n, t, hlines, hc.returnedFrom ht, hv⟩

/-- Settles O43: the turns of `Fill`, from any line that calls it. -/
theorem fillQueuesOneBatch : Obligations.FillQueuesOneBatch := by
  unfold Obligations.FillQueuesOneBatch
  intro a s addr k hcalls hk hsend hclear hroom
  obtain ⟨c, rfl, hc, hq⟩ := hcalls.line
  obtain ⟨b, h⟩ := (Reaches.start (p := .line c) hc).fill hq hk hsend hclear hroom
  obtain ⟨n, t, hlines, hret, hv⟩ := h.returned hc
  obtain ⟨hengine, hdev, hmem, hloc⟩ := View.mk.inj hv
  exact ⟨n, t, hlines, hret, by rw [hloc], hengine, hdev, hmem⟩

/-- Settles O44: the turns of `Drain`, from any line that calls it. -/
theorem drainRetiresBatch : Obligations.DrainRetiresBatch := by
  unfold Obligations.DrainRetiresBatch
  intro a s hcalls hreq hclear
  obtain ⟨c, rfl, hc, hq⟩ := hcalls.line
  obtain ⟨b, drawn, hdrawn, h⟩ := (Reaches.start (p := .line c) hc).drain hq hreq hclear
  obtain ⟨n, t, hlines, hret, hv⟩ := h.returned hc
  obtain ⟨hengine, hdev, hmem, -⟩ := View.mk.inj hv
  exact ⟨n, t, drawn, hlines, hret, hdrawn, hengine, hdev, hmem.trans (drainedMemory_eq s _ drawn).symm⟩

end Sys2Proof.Machine
end

section
/-! SUPPORT. Activations of the completion handler, followed line by line (R225 to R233): the latch, the batch, the completion or
the refill, and the error checks. -/

namespace Sys2Proof.Machine

/-! ### Values the Handler writes -/

theorem crStored_crAfterDeassert {cr : Word} (h : crStored cr = cr) : crStored (crAfterDeassert cr) = crAfterDeassert cr := by
  unfold crAfterDeassert
  split
  · rw [← h, crStored_crDeasserted]
  · exact h

@[simp] theorem crManualCs_crDeasserted (cr : Word) : crManualCs (crDeasserted cr) = crManualCs cr := by
  simp [crManualCs, crDeasserted, Config.ssMask]

@[simp] theorem crDeasserted_crDeasserted (cr : Word) : crDeasserted (crDeasserted cr) = crDeasserted cr := by
  simp [crDeasserted, BitVec.or_assoc]

@[simp] theorem crAfterDeassert_crAfterDeassert (cr : Word) :
    crAfterDeassert (crAfterDeassert cr) = crAfterDeassert cr := by
  unfold crAfterDeassert
  split <;> simp_all

/-- Writing the latched sticky flags back clears them all (R90, R225). -/
theorem clearSticky_latched (p : Params) (d : Dev) :
    clearSticky (srValue p d &&& Config.w1cAll) d = { d with rxovr := false, modf := false, txuf := false } := by
  have hrxovr : ∀ w, srRxovr (w &&& Config.w1cAll) = srRxovr w := by simp [srRxovr, Config.w1cAll]
  have hmodf : ∀ w, srModf (w &&& Config.w1cAll) = srModf w := by simp [srModf, Config.w1cAll]
  have htxuf : ∀ w, srTxuf (w &&& Config.w1cAll) = srTxuf w := by simp [srTxuf, Config.w1cAll]
  simp [clearSticky, hrxovr, hmodf, htxuf]

theorem mask_irqXfer_mask (imr : BitVec 7) : mask Config.irqXfer (mask Config.bTxrdy imr) = imr &&& ~~~(0x47#7) := by
  apply BitVec.eq_of_getLsbD_eq; intro j hj
  interval_cases j <;> simp [mask, Config.irqXfer, Config.bTxrdy]

theorem unmask_bTxrdy_mask (imr : BitVec 7) : unmask Config.bTxrdy (mask Config.bTxrdy imr) = imr ||| 4#7 := by
  apply BitVec.eq_of_getLsbD_eq; intro j hj
  interval_cases j <;> simp [unmask, mask, Config.bTxrdy]

/-- The final byte count (R235), of the parameters and the engine. -/
def finalCount (p : Params) (e : Engine) : Word :=
  match p.completeCount with
  | .zero => e.requestedBytes
  | .total => e.totalBytes

theorem completeCount_eq (s : State) : completeCount s = finalCount s.params s.engine := by
  unfold completeCount finalCount
  cases s.params.completeCount <;> rfl

/-! ### Reports -/

theorem Reports.event {calls : List Event} {last : Bool} {s t u : State} {e : Event} (h : Reports calls last s t)
    (he : notCallback e = true) (hu : u.trace = t.trace ++ [e]) : Reports calls false s u :=
  h.quiet ⟨[e], hu, by simp [isCallback, he], nofun⟩

/-- No callback was issued. -/
theorem Reports.none_issued {last : Bool} {s t : State} (h : Reports [] last s t) :
    ∃ events, t.trace = s.trace ++ events ∧ events.all notCallback = true := by
  obtain ⟨events, ht, hc, -⟩ := h
  exact ⟨events, ht, by simpa [List.filter_eq_nil_iff, isCallback] using hc⟩

/-- One callback was issued, as the last event. -/
theorem Reports.one_issued {s t : State} {e : Event} (he : isCallback e = true) (h : Reports [e] true s t) :
    ∃ events, t.trace = s.trace ++ events ++ [e] ∧ events.all notCallback = true := by
  obtain ⟨events, ht, hc, hl⟩ := h
  have hlast : events.getLast? = some e := hl rfl
  obtain ⟨before, rfl⟩ := List.getLast?_eq_some_iff.1 hlast
  have hbefore : before.filter isCallback = [] := by simpa [he] using hc
  exact ⟨before, by rw [ht, List.append_assoc], by simpa [List.filter_eq_nil_iff, isCallback] using hbefore⟩

/-! ### The kinds of Handler lines -/

section

variable {s₀ : State} {calls calls' : List Event} {last last' : Bool} {l l' : HandlerLine} {v v' : View}

/-- One line of the Handler's own list. -/
theorem Reaches.handlerLine (h : Reaches s₀ calls last (.line (.handler l)) v)
    (hline : ∀ s, s.params = s₀.params → view .handler s = v → Reports calls last s₀ s →
      ∃ u, handlerLine l s = .next (goHandler l' u) ∧ u.handlerActive = s.handlerActive ∧ view .handler u = v' ∧
        Reports calls' last' s₀ u) :
    Reaches s₀ calls' last' (.line (.handler l')) v' := by
  obtain ⟨n, s, hrun, hrep, ⟨ha, hp⟩, hv⟩ := h
  obtain ⟨u, hu, hactive, hv', hrep'⟩ := hline s hrun.params hv hrep
  have hstep : Runs False .handler 1 s (goHandler l' u) :=
    .line ha (by simpa only [lineStep, handlerStep, hp] using hu) nofun
  exact ⟨n + 1, _, hrun.trans hstep, hrep'.silent rfl, ⟨by simpa [hactive] using ha, rfl⟩, hv'⟩

/-- A line that only chooses the next one. -/
theorem Reaches.goes (h : Reaches s₀ calls last (.line (.handler l)) v)
    (hline : ∀ s, view .handler s = v → Machine.handlerLine l s = .next (goHandler l' s)) :
    Reaches s₀ calls last (.line (.handler l')) v :=
  h.handlerLine fun s _ hv hrep => ⟨s, hline s hv, rfl, hv, hrep⟩

/-- A line that writes a register. -/
theorem Reaches.writes {r : Reg} {off w : Word} (h : Reaches s₀ calls last (.line (.handler l)) v)
    (hline : ∀ s, view .handler s = v →
      Machine.handlerLine l s = .next (goHandler l' (log (.wrReg off w) { s with dev := writeReg r w s.dev }))) :
    Reaches s₀ calls false (.line (.handler l')) { v with dev := writeReg r w v.dev } :=
  h.handlerLine fun s _ hv hrep => ⟨_, hline s hv, rfl, by subst hv; rfl, hrep.event rfl rfl⟩

/-- A line that clears the busy flag. -/
theorem Reaches.clearsBusy (h : Reaches s₀ calls last (.line (.handler l)) v)
    (hline : ∀ s, Machine.handlerLine l s = .next (goHandler l' (setBusy false s))) :
    Reaches s₀ calls last (.line (.handler l')) { v with engine := { v.engine with isBusy := false } } :=
  h.handlerLine fun s _ hv hrep => ⟨_, hline s, rfl, by subst hv; rfl, hrep.silent rfl⟩

/-- A line that takes the difference for a callback (R190). -/
theorem Reaches.takesDiff (h : Reaches s₀ calls last (.line (.handler l)) v)
    (hle : v.engine.remainingBytes ≤ v.engine.requestedBytes)
    (hline : ∀ s, Machine.handlerLine l s = diff s fun n => .next (goHandler l' (setBytes .handler n s))) :
    Reaches s₀ calls last (.line (.handler l')) { v with
      loc := { v.loc with bytes := v.engine.requestedBytes - v.engine.remainingBytes } } :=
  h.handlerLine fun s _ hv hrep => by
    subst hv
    exact ⟨_, (hline s).trans (if_neg (BitVec.not_lt.2 hle)), rfl, rfl, hrep.silent rfl⟩

/-- A line that issues a callback (R334). -/
theorem Reaches.issues {kind : EventKind} {id count : Word} (h : Reaches s₀ calls last (.line (.handler l)) v)
    (hid : v.engine.statusCallback = .registered id)
    (hline : ∀ s, s.params = s₀.params → view .handler s = v →
      Machine.handlerLine l s = callback kind count s fun s => .next (goHandler l' s)) :
    Reaches s₀ (calls ++ [.cb v.engine.callbackContext id kind count]) true (.line (.handler l')) v :=
  h.handlerLine fun s hp hv hrep => by
    have hl := hline s hp hv
    subst hv
    exact ⟨_, hl.trans (callback_registered hid _ _ _), rfl, rfl, hrep.call rfl rfl⟩

/-! ### The parts of an activation -/

/-- `H1` to `H4`: the status is latched, its sticky flags cleared and TXRDY masked; no mode fault (R225, R226). -/
theorem Reaches.latches (h : Reaches s₀ calls last (.line (.handler .h1)) v) (hmodf : v.dev.modf = false) :
    Reaches s₀ calls false (.line (.handler .h8)) { v with
      dev := { v.dev with rxovr := false, txuf := false, imr := mask Config.bTxrdy v.dev.imr }
      loc := { v.loc with sr := srValue s₀.params v.dev } } := by
  have h2 : Reaches s₀ calls false (.line (.handler .h2)) { v with loc := { v.loc with sr := srValue s₀.params v.dev } } :=
    h.handlerLine fun s hp hv hrep => by
      subst hv
      rw [← hp]
      exact ⟨_, readSrLocal_eq _ _ _, rfl, rfl, hrep.event rfl rfl⟩
  have h4 := (h2.writes (l' := .h3) (r := .sr) (w := srValue s₀.params v.dev &&& Config.w1cAll) (off := Config.offSr)
    fun s hv => by
      have hsr : s.handlerLoc.sr = srValue s₀.params v.dev := congrArg (·.loc.sr) hv
      simp only [Machine.handlerLine, hsr]
      rfl).writes (l' := .h4) (r := .idr) (w := Config.bTxrdy) (off := Config.offIdr) fun _ _ => rfl
  have h8 := h4.goes (l' := .h8) fun s hv => by
    have hsr : s.handlerLoc.sr = srValue s₀.params v.dev := congrArg (·.loc.sr) hv
    simp [Machine.handlerLine, hsr, hmodf]
  exact h8.cast (by simp [writeReg, clearSticky_latched, ← hmodf])

/-- `H8` without TXRDY: the batch is still in flight. -/
theorem Reaches.skipsBatch (h : Reaches s₀ calls last (.line (.handler .h8)) v) (htx : srTxrdy v.loc.sr = false) :
    Reaches s₀ calls last (.line (.handler .h20)) v :=
  h.goes fun s hv => by
    have hsr : s.handlerLoc.sr = v.loc.sr := congrArg (·.loc.sr) hv
    simp [Machine.handlerLine, hsr, htx]

/-- `H8` to `H10` with TXRDY: the batch is drained (R228). -/
theorem Reaches.drainsBatch {k : Nat} (h : Reaches s₀ calls last (.line (.handler .h8)) v)
    (htx : srTxrdy v.loc.sr = true) (hle : v.engine.remainingBytes ≤ v.engine.requestedBytes)
    (hk : k = (v.engine.requestedBytes - v.engine.remainingBytes).toNat)
    (hclear : ∀ r, v.engine.recvBuffer = some r → BufferClear v.engine r k) :
    ∃ b drawn, drawn.length = k - v.dev.rxFifo.length ∧ Reaches s₀ calls false (.line (.handler .h11)) { v with
      engine := { v.engine with
        recvBuffer := v.engine.recvBuffer.map (· + k)
        requestedBytes := v.engine.remainingBytes }
      dev := { v.dev with rxFifo := v.dev.rxFifo.drop k }
      mem := storeAt v.engine.recvBuffer v.mem (v.dev.rxFifo.take k ++ drawn)
      loc := { v.loc with k := 0#32, b := b } } := by
  have h9 : Reaches s₀ calls last (.line (.handler .h9)) v := h.goes fun s hv => by
    have hsr : s.handlerLoc.sr = v.loc.sr := congrArg (·.loc.sr) hv
    simp [Machine.handlerLine, hsr, htx]
  have h10 : Reaches s₀ calls last (.line (.handler .h10)) { v with
      loc := { v.loc with k := v.engine.requestedBytes - v.engine.remainingBytes } } :=
    h9.handlerLine fun s _ hv hrep => by
      subst hv
      exact ⟨_, if_neg (BitVec.not_lt.2 hle), rfl, rfl, hrep.silent rfl⟩
  subst hk
  obtain ⟨b, drawn, hlen, h11⟩ := h10.drain rfl (by simp only; bv_omega) hclear
  have hreq : v.engine.requestedBytes - (v.engine.requestedBytes - v.engine.remainingBytes) = v.engine.remainingBytes := by
    bv_omega
  exact ⟨b, drawn, hlen, h11.cast (by simp only [hreq])⟩

/-- `H11` to `H17` after the last batch: the sources are masked, chip-select deasserted, busy cleared, the device disabled and
the completion reported (R229). -/
theorem Reaches.completes {id : Word} (h : Reaches s₀ calls last (.line (.handler .h11)) v)
    (hrem : v.engine.remainingBytes = 0#32) (hreq : v.engine.requestedBytes = 0#32)
    (hid : v.engine.statusCallback = .registered id) (hcr : crStored v.dev.cr = v.dev.cr) :
    Reaches s₀ (calls ++ [.cb v.engine.callbackContext id .transferDone (finalCount s₀.params v.engine)]) true
      (.line (.handler .h20)) { v with
        engine := { v.engine with isBusy := false }
        dev := { v.dev with
          imr := mask Config.irqXfer v.dev.imr
          cr := crAfterDeassert v.dev.cr
          en := false
          startArmed := false }
        loc := { v.loc with k := 0#32, cr := v.dev.cr } } := by
  have h12 : Reaches s₀ calls false (.line (.handler .h12)) _ := h.fill_nothing rfl hrem
  have h13 := h12.goes (l' := .h13) fun s hv => by
    have hrem' : s.engine.remainingBytes = 0#32 := (congrArg (·.engine.remainingBytes) hv).trans hrem
    have hreq' : s.engine.requestedBytes = 0#32 := (congrArg (·.engine.requestedBytes) hv).trans hreq
    simp [Machine.handlerLine, hrem', hreq']
  have h14 := h13.writes (l' := .h14) (r := .idr) (w := Config.irqXfer) (off := Config.offIdr) fun _ _ => rfl
  have h15 : Reaches s₀ calls false (.line (.handler .h15)) _ := h14.deassertIfManual rfl hcr
  have h17 := (h15.clearsBusy (l' := .h16) fun _ => rfl).writes (l' := .h17) (r := .er) (w := 0#32) (off := Config.offEr)
    fun _ _ => rfl
  have h20 := h17.issues (l' := .h20) (kind := .transferDone) (count := finalCount s₀.params v.engine) hid
    fun s hp hv => by
      have hengine : s.engine = { v.engine with isBusy := false } := congrArg (·.engine) hv
      have hcount : completeCount s = finalCount s₀.params v.engine := by
        rw [completeCount_eq, hp, hengine]; rfl
      simp only [Machine.handlerLine, hcount]
  exact h20.cast (by simp [writeReg])

/-- `H11` to `H19` with bytes left: the next batch is queued, TXRDY unmasked and a start armed (R230). -/
theorem Reaches.refills {addr j : Nat} (h : Reaches s₀ calls last (.line (.handler .h11)) v)
    (hreq : v.engine.requestedBytes ≠ 0#32)
    (hj : j = min (fifoDepth s₀.params) v.engine.remainingBytes.toNat) (hsend : v.engine.sendBuffer = some addr)
    (hclear : BufferClear v.engine addr j) (htx : v.dev.txFifo = []) (hcr : crStored v.dev.cr = v.dev.cr) :
    ∃ b, Reaches s₀ calls false (.line (.handler .h20)) { v with
      engine := { v.engine with
        sendBuffer := some (addr + j)
        remainingBytes := v.engine.remainingBytes - BitVec.ofNat 32 j }
      dev := { v.dev with
        txFifo := bytesAt v.mem addr j
        imr := unmask Config.bTxrdy v.dev.imr
        startArmed := v.dev.startArmed || (crManstrtEn v.dev.cr && crMstren v.dev.cr && v.dev.en) }
      loc := { v.loc with k := BitVec.ofNat 32 j, cr := v.dev.cr, b := b } } := by
  obtain ⟨b, h12⟩ := h.fill rfl hj hsend hclear (by rw [htx]; simp; omega)
  have h18 : Reaches s₀ calls false (.line (.handler .h18)) _ := Reaches.goes (l := .h12) h12 fun s hv => by
    have hreq' : s.engine.requestedBytes ≠ 0#32 := by
      rwa [show s.engine.requestedBytes = v.engine.requestedBytes from congrArg (·.engine.requestedBytes) hv]
    simp [Machine.handlerLine, hreq']
  have h19 := h18.writes (l' := .h19) (r := .ier) (w := Config.bTxrdy) (off := Config.offIer) fun _ _ => rfl
  exact ⟨b, (h19.startIfManual rfl hcr).cast (by simp [writeReg, htx])⟩

/-- `H20` to `H24` with a receive overrun latched (R231). -/
theorem Reaches.reportsOverrun {id : Word} (h : Reaches s₀ calls last (.line (.handler .h20)) v)
    (hsr : srRxovr v.loc.sr = true) (hle : v.engine.remainingBytes ≤ v.engine.requestedBytes)
    (hid : v.engine.statusCallback = .registered id) (hcr : crStored v.dev.cr = v.dev.cr) :
    Reaches s₀ (calls ++ [.cb v.engine.callbackContext id .receiveOverrun
        (v.engine.requestedBytes - v.engine.remainingBytes)]) true (.line (.handler .h25)) { v with
      engine := { v.engine with isBusy := false }
      dev := { v.dev with cr := crAfterDeassert v.dev.cr }
      loc := { v.loc with bytes := v.engine.requestedBytes - v.engine.remainingBytes, cr := v.dev.cr } } := by
  have h21 : Reaches s₀ calls last (.line (.handler .h21)) v := h.goes fun s hv => by
    have hsr' : s.handlerLoc.sr = v.loc.sr := congrArg (·.loc.sr) hv
    simp [Machine.handlerLine, hsr', hsr]
  have h23 := (h21.takesDiff (l' := .h22) hle fun _ => rfl).clearsBusy (l' := .h23) fun _ => rfl
  have h24 : Reaches s₀ calls false (.line (.handler .h24)) _ := h23.deassertIfManual rfl hcr
  exact h24.issues hid fun s _ hv => by
    have hbytes : s.handlerLoc.bytes = _ := congrArg (·.loc.bytes) hv
    simp only [Machine.handlerLine, hbytes]

/-- `H25` to `H29` with a transmit underrun latched (R232). -/
theorem Reaches.reportsUnderrun {id : Word} (h : Reaches s₀ calls last (.line (.handler .h25)) v)
    (hsr : srTxuf v.loc.sr = true) (hle : v.engine.remainingBytes ≤ v.engine.requestedBytes)
    (hid : v.engine.statusCallback = .registered id) (hcr : crStored v.dev.cr = v.dev.cr) :
    Reaches s₀ (calls ++ [.cb v.engine.callbackContext id .transmitUnderrun
        (v.engine.requestedBytes - v.engine.remainingBytes)]) true (.line (.handler .h30)) { v with
      engine := { v.engine with isBusy := false }
      dev := { v.dev with cr := crAfterDeassert v.dev.cr }
      loc := { v.loc with bytes := v.engine.requestedBytes - v.engine.remainingBytes, cr := v.dev.cr } } := by
  have h26 : Reaches s₀ calls last (.line (.handler .h26)) v := h.goes fun s hv => by
    have hsr' : s.handlerLoc.sr = v.loc.sr := congrArg (·.loc.sr) hv
    simp [Machine.handlerLine, hsr', hsr]
  have h28 := (h26.takesDiff (l' := .h27) hle fun _ => rfl).clearsBusy (l' := .h28) fun _ => rfl
  have h29 : Reaches s₀ calls false (.line (.handler .h29)) _ := h28.deassertIfManual rfl hcr
  exact h29.issues hid fun s _ hv => by
    have hbytes : s.handlerLoc.bytes = _ := congrArg (·.loc.bytes) hv
    simp only [Machine.handlerLine, hbytes]

theorem Reaches.skipsOverrun (h : Reaches s₀ calls last (.line (.handler .h20)) v) (hsr : srRxovr v.loc.sr = false) :
    Reaches s₀ calls last (.line (.handler .h25)) v :=
  h.goes fun s hv => by
    have hsr' : s.handlerLoc.sr = v.loc.sr := congrArg (·.loc.sr) hv
    simp [Machine.handlerLine, hsr', hsr]

theorem Reaches.skipsUnderrun (h : Reaches s₀ calls last (.line (.handler .h25)) v) (hsr : srTxuf v.loc.sr = false) :
    Reaches s₀ calls last (.line (.handler .h30)) v :=
  h.goes fun s hv => by
    have hsr' : s.handlerLoc.sr = v.loc.sr := congrArg (·.loc.sr) hv
    simp [Machine.handlerLine, hsr', hsr]

end

end Sys2Proof.Machine
end

section
/-! SUPPORT. Whole activations of the completion handler (R228 to R233): what each statement's activation reaches, part by part. -/

namespace Sys2Proof.Machine

/-! ### From the start to the return -/

/-- What the Handler sees after its latch: the status it read, the sticky flags cleared and TXRDY masked. -/
def latchedView (s : State) : View where
  engine := s.engine
  dev := { s.dev with rxovr := false, txuf := false, imr := mask Config.bTxrdy s.dev.imr }
  mem := s.mem
  loc := { s.handlerLoc with sr := srValue s.params s.dev }

theorem reaches_latchedView {s : State} (ha : s.handlerActive = true) (hp : s.handlerPc = .line .h1)
    (hmodf : s.dev.modf = false) : Reaches s [] false (.line (.handler .h8)) (latchedView s) :=
  (Reaches.start (p := .line (.handler .h1)) ⟨ha, hp⟩).latches hmodf

section

variable {s : State} {calls : List Event} {last : Bool} {v : View}

/-- `H20` to `H29` with neither flag latched. -/
theorem Reaches.noErrors (h : Reaches s calls last (.line (.handler .h20)) v)
    (hrxovr : srRxovr v.loc.sr = false) (htxuf : srTxuf v.loc.sr = false) :
    Reaches s calls last (.line (.handler .h30)) v :=
  (h.skipsOverrun hrxovr).skipsUnderrun htxuf

/-- `H20` to `H29` with a flag latched, or both: each is reported, in their order (R231 to R233). -/
theorem Reaches.errors {id : Word} (h : Reaches s calls last (.line (.handler .h20)) v)
    (hflag : s.dev.rxovr = true ∨ s.dev.txuf = true) (hrxovr : srRxovr v.loc.sr = s.dev.rxovr)
    (htxuf : srTxuf v.loc.sr = s.dev.txuf) (hle : v.engine.remainingBytes ≤ v.engine.requestedBytes)
    (hid : v.engine.statusCallback = .registered id) (hctx : v.engine.callbackContext = s.engine.callbackContext)
    (hcr : crStored v.dev.cr = v.dev.cr) :
    ∃ loc, Reaches s (calls ++ errorCallbacks s id (v.engine.requestedBytes - v.engine.remainingBytes)) true
      (.line (.handler .h30)) { v with
        engine := { v.engine with isBusy := false }
        dev := { v.dev with cr := crAfterDeassert v.dev.cr }
        loc := loc } := by
  rcases hr : s.dev.rxovr with _ | _
  · have hu : s.dev.txuf = true := hflag.resolve_left (by simp [hr])
    have h30 := (h.skipsOverrun (hrxovr.trans hr)).reportsUnderrun (htxuf.trans hu) hle hid hcr
    exact ⟨_, by simpa [errorCallbacks, hr, hu, hctx] using h30⟩
  · have h25 := h.reportsOverrun (hrxovr.trans hr) hle hid hcr
    rcases hu : s.dev.txuf with _ | _
    · exact ⟨_, by simpa [errorCallbacks, hr, hu, hctx] using h25.skipsUnderrun (htxuf.trans hu)⟩
    · have h30 := h25.reportsUnderrun (htxuf.trans hu) hle hid (crStored_crAfterDeassert hcr)
      exact ⟨_, by simpa [errorCallbacks, hr, hu, hctx] using h30⟩

/-- `H30`: the Handler returns (R343). -/
theorem Reaches.ends (h : Reaches s calls last (.line (.handler .h30)) v) :
    ∃ n t, runLines .handler n s = .next t ∧ t.handlerActive = false ∧ t.engine = v.engine ∧ t.dev = v.dev ∧
      t.mem = v.mem ∧ Reports calls last s t := by
  obtain ⟨n, u, hrun, hrep, ⟨ha, hp⟩, hv⟩ := h
  obtain ⟨hengine, hdev, hmem, -⟩ := View.mk.inj hv
  have hreturn : lineStep .handler u = .next (trapReturn u) := by simp only [lineStep, handlerStep, hp, Machine.handlerLine]
  exact ⟨n + 1, trapReturn u, (hrun.lines 1).trans (runLines_line (a := .handler) ha hreturn 0), rfl, hengine, hdev, hmem, hrep.silent rfl⟩

end

/-! ### The batch of an activation -/

/-- An activation that latches TXRDY drains the batch in flight (R228). -/
theorem reaches_drained {s : State} {k : Nat} (ha : s.handlerActive = true) (hp : s.handlerPc = .line .h1)
    (hmodf : s.dev.modf = false) (htx : s.dev.txFifo = []) (hle : s.engine.remainingBytes ≤ s.engine.requestedBytes)
    (hk : k = batchInFlight s) (hclear : ∀ r, s.engine.recvBuffer = some r → BufferClear s.engine r k) :
    ∃ b drawn, drawn.length = k - s.dev.rxFifo.length ∧ Reaches s [] false (.line (.handler .h11)) { latchedView s with
      engine := { s.engine with
        recvBuffer := s.engine.recvBuffer.map (· + k)
        requestedBytes := s.engine.remainingBytes }
      dev := { (latchedView s).dev with rxFifo := s.dev.rxFifo.drop k }
      mem := drainedMemory s k drawn
      loc := { (latchedView s).loc with k := 0#32, b := b } } := by
  have htxrdy : srTxrdy (latchedView s).loc.sr = true := by simp [latchedView, htx]
  obtain ⟨b, drawn, hlen, h⟩ := (reaches_latchedView ha hp hmodf).drainsBatch htxrdy hle hk hclear
  exact ⟨b, drawn, hlen, h.cast (by rw [drainedMemory_eq]; rfl)⟩

/-- The engine after an activation with the last batch pending. -/
def completedEngine (s : State) (k : Nat) : Engine :=
  { s.engine with isBusy := false, recvBuffer := s.engine.recvBuffer.map (· + k), requestedBytes := 0#32 }

/-- The register block after an activation with the last batch pending. -/
def completedDev (s : State) (k : Nat) : Dev :=
  { s.dev with
    rxovr := false
    txuf := false
    rxFifo := s.dev.rxFifo.drop k
    en := false
    startArmed := false
    imr := s.dev.imr &&& ~~~(0x47#7)
    cr := crAfterDeassert s.dev.cr }

/-- With the last batch pending, the activation completes the transfer (R229). -/
theorem reaches_completed {s : State} {id : Word} {k : Nat} (ha : s.handlerActive = true)
    (hp : s.handlerPc = .line .h1) (hmodf : s.dev.modf = false) (htx : s.dev.txFifo = [])
    (hid : s.engine.statusCallback = .registered id) (hrem : s.engine.remainingBytes = 0#32) (hk : k = batchInFlight s)
    (hcr : crStored s.dev.cr = s.dev.cr) (hclear : ∀ r, s.engine.recvBuffer = some r → BufferClear s.engine r k) :
    ∃ drawn loc, drawn.length = k - s.dev.rxFifo.length ∧ loc.sr = srValue s.params s.dev ∧
      Reaches s [.cb s.engine.callbackContext id .transferDone (finalCount s.params (completedEngine s k))] true (.line (.handler .h20))
        ⟨completedEngine s k, completedDev s k, drainedMemory s k drawn, loc⟩ := by
  obtain ⟨b, drawn, hlen, h11⟩ := reaches_drained ha hp hmodf htx (by rw [hrem]; bv_omega) hk hclear
  have h20 := h11.completes hrem hrem hid hcr
  refine ⟨drawn, { s.handlerLoc with sr := srValue s.params s.dev, k := 0#32, b := b, cr := s.dev.cr }, hlen, rfl,
    (h20.castCalls ?_).cast ?_⟩
  · simp [finalCount, completedEngine, hrem]
  · simp [latchedView, completedEngine, completedDev, hrem, mask_irqXfer_mask]

/-- The engine after an activation that queued the next batch of `j` bytes. -/
def refilledEngine (s : State) (send k j : Nat) : Engine :=
  { s.engine with
    sendBuffer := some (send + j)
    recvBuffer := s.engine.recvBuffer.map (· + k)
    requestedBytes := s.engine.requestedBytes - BitVec.ofNat 32 k
    remainingBytes := s.engine.remainingBytes - BitVec.ofNat 32 j }

/-- The register block after an activation that queued these bytes. -/
def refilledDev (s : State) (k : Nat) (queued : List Byte) : Dev :=
  { s.dev with
    rxovr := false
    txuf := false
    imr := s.dev.imr ||| 4#7
    txFifo := queued
    rxFifo := s.dev.rxFifo.drop k
    startArmed := s.dev.startArmed || (crManstrtEn s.dev.cr && crMstren s.dev.cr && s.dev.en) }

/-- What is requested still, once the batch in flight is retired, is what remained to be queued (R228). -/
theorem requested_after_batch {s : State} {k : Nat} (hk : k = batchInFlight s) :
    s.engine.requestedBytes - BitVec.ofNat 32 k = s.engine.remainingBytes := by
  rw [hk, batchInFlight, BitVec.ofNat_toNat, BitVec.setWidth_eq]
  bv_omega

/-- With bytes left to queue, the activation queues the next batch (R230). -/
theorem reaches_refilled {s : State} {send k j : Nat} (ha : s.handlerActive = true)
    (hp : s.handlerPc = .line .h1) (hmodf : s.dev.modf = false) (htx : s.dev.txFifo = [])
    (hcr : crStored s.dev.cr = s.dev.cr) (hle : s.engine.remainingBytes ≤ s.engine.requestedBytes)
    (hk : k = batchInFlight s) (hrem : s.engine.remainingBytes ≠ 0#32)
    (hj : j = min (fifoDepth s.params) s.engine.remainingBytes.toNat) (hsend : s.engine.sendBuffer = some send)
    (hclearSend : BufferClear s.engine send j)
    (hclear : ∀ r, s.engine.recvBuffer = some r → BufferClear s.engine r k) :
    ∃ drawn loc, drawn.length = k - s.dev.rxFifo.length ∧ loc.sr = srValue s.params s.dev ∧
      Reaches s [] false (.line (.handler .h20))
        ⟨refilledEngine s send k j, refilledDev s k (bytesAt (drainedMemory s k drawn) send j), drainedMemory s k drawn,
          loc⟩ := by
  obtain ⟨b, drawn, hlen, h11⟩ := reaches_drained ha hp hmodf htx hle hk hclear
  obtain ⟨b', h20⟩ := h11.refills hrem hj hsend hclearSend htx hcr
  refine ⟨drawn, { s.handlerLoc with sr := srValue s.params s.dev, k := BitVec.ofNat 32 j, b := b', cr := s.dev.cr },
    hlen, rfl, h20.cast ?_⟩
  simp [latchedView, refilledEngine, refilledDev, requested_after_batch hk, unmask_bTxrdy_mask]

/-! ### The statements -/

/-- Settles O49: the batch, the completion with its callback last, and no error check. -/
theorem lastBatchActivationCompletes : Obligations.LastBatchActivationCompletes := by
  unfold Obligations.LastBatchActivationCompletes
  intro s id k ha hp hmodf hrxovr htxuf htx hid hrem hk hcr hclear
  obtain ⟨drawn, loc, hlen, hsr, h20⟩ := reaches_completed ha hp hmodf htx hid hrem hk hcr hclear
  obtain ⟨n, t, hlines, hactive, hengine, hdev, hmem, hrep⟩ :=
    (h20.noErrors (by simp [hsr, hrxovr]) (by simp [hsr, htxuf])).ends
  obtain ⟨events, htrace, hevents⟩ := hrep.one_issued rfl
  simp only at hengine hdev hmem
  refine ⟨n, t, events, drawn, hlines, hlen, hactive, ?_⟩
  rw [hengine, hdev]
  exact ⟨rfl, rfl, hrem, rfl, htx, rfl, rfl, rfl, hmem, htrace, hevents⟩

/-- Settles O50: the batch, the refill with its start, no error check and no callback. -/
theorem middleBatchActivationRefills : Obligations.MiddleBatchActivationRefills := by
  unfold Obligations.MiddleBatchActivationRefills
  intro s send k j ha hp hmodf hrxovr htxuf htx hcr hle hk hrem hj hsend hclearSend hclear
  obtain ⟨drawn, loc, hlen, hsr, h20⟩ := reaches_refilled ha hp hmodf htx hcr hle hk hrem hj hsend hclearSend hclear
  obtain ⟨n, t, hlines, hactive, hengine, hdev, hmem, hrep⟩ :=
    (h20.noErrors (by simp [hsr, hrxovr]) (by simp [hsr, htxuf])).ends
  obtain ⟨events, htrace, hevents⟩ := hrep.none_issued
  simp only at hengine hdev hmem
  refine ⟨n, t, events, drawn, hlines, hlen, hactive, hengine, hmem, ?_⟩
  rw [hdev, hmem]
  exact ⟨rfl, rfl, rfl, rfl, rfl, rfl, htrace, hevents⟩

/-- Where TXRDY is not latched, an error activation reports what it latched and leaves the batch in flight. -/
theorem errorActivation_inFlight {s : State} {id : Word} (ha : s.handlerActive = true)
    (hp : s.handlerPc = .line .h1) (hmodf : s.dev.modf = false) (hflag : s.dev.rxovr = true ∨ s.dev.txuf = true)
    (hid : s.engine.statusCallback = .registered id) (hcr : crStored s.dev.cr = s.dev.cr) (htx : s.dev.txFifo ≠ [])
    (hle : s.engine.remainingBytes ≤ s.engine.requestedBytes) :
    ∃ n t, runLines .handler n s = .next t ∧ t.handlerActive = false ∧ t.engine = { s.engine with isBusy := false } ∧
      t.dev = { s.dev with
        rxovr := false
        txuf := false
        imr := s.dev.imr &&& ~~~(4#7)
        cr := crAfterDeassert s.dev.cr } ∧
      t.mem = s.mem ∧
      Reports (errorCallbacks s id (s.engine.requestedBytes - s.engine.remainingBytes)) true s t := by
  have h20 := (reaches_latchedView ha hp hmodf).skipsBatch (by simpa [latchedView] using htx)
  obtain ⟨loc, h30⟩ := h20.errors hflag (by simp [latchedView]) (by simp [latchedView]) hle hid rfl hcr
  exact h30.ends

/-- After the refill the difference is the length of the batch queued, and not negative (R190, R233). -/
theorem refilledEngine_diff {s : State} {send k j : Nat} (hk : k = batchInFlight s)
    (hj : j ≤ s.engine.remainingBytes.toNat) :
    (refilledEngine s send k j).remainingBytes ≤ (refilledEngine s send k j).requestedBytes ∧
      (refilledEngine s send k j).requestedBytes - (refilledEngine s send k j).remainingBytes = BitVec.ofNat 32 j := by
  have hlt : s.engine.remainingBytes.toNat < 2 ^ 32 := s.engine.remainingBytes.isLt
  have htoNat : (BitVec.ofNat 32 j).toNat = j := by simp; omega
  simp only [refilledEngine, requested_after_batch hk]
  constructor <;> bv_omega

/-- Settles O51: in each of the three cases the batch's part is followed by the error checks, with the difference it leaves. -/
theorem errorActivationsCleanUp : Obligations.ErrorActivationsCleanUp := by
  unfold Obligations.ErrorActivationsCleanUp
  intro s id ha hp hmodf hflag hid hcr
  refine ⟨fun htx hle => ?_, fun k htx hrem hk hclear => ?_,
    fun send k j htx hle hk hrem hj hsend hclearSend hclear => ?_⟩
  · obtain ⟨n, t, hlines, hactive, hengine, hdev, hmem, events, htrace, hcalls, hlast⟩ :=
      errorActivation_inFlight ha hp hmodf hflag hid hcr htx hle
    exact ⟨n, t, events, hlines, hactive, hengine, hdev, hmem, htrace, hcalls, hlast rfl⟩
  · obtain ⟨drawn, loc, hlen, hsr, h20⟩ := reaches_completed ha hp hmodf htx hid hrem hk hcr hclear
    obtain ⟨loc', h30⟩ := h20.errors hflag (by simp [hsr]) (by simp [hsr]) (by simp [completedEngine, hrem]) hid rfl
      (crStored_crAfterDeassert hcr)
    obtain ⟨n, t, hlines, hactive, hengine, hdev, hmem, events, htrace, hcalls, -⟩ := h30.ends
    have hdiff : (completedEngine s k).requestedBytes - (completedEngine s k).remainingBytes = 0#32 := by
      simp [completedEngine, hrem]
    have hcrTwice : crAfterDeassert (completedDev s k).cr = crAfterDeassert s.dev.cr := by simp [completedDev]
    simp only [hdiff, hcrTwice] at hcalls hdev
    exact ⟨n, t, events, drawn, hlines, hlen, hactive, hengine, hdev, hmem, htrace, hcalls⟩
  · obtain ⟨drawn, loc, hlen, hsr, h20⟩ := reaches_refilled ha hp hmodf htx hcr hle hk hrem hj hsend hclearSend hclear
    obtain ⟨hle', hdiff⟩ := refilledEngine_diff (send := send) hk (hj ▸ Nat.min_le_right _ _)
    obtain ⟨loc', h30⟩ := h20.errors hflag (by simp [hsr]) (by simp [hsr]) hle' hid rfl hcr
    obtain ⟨n, t, hlines, hactive, hengine, hdev, hmem, events, htrace, hcalls, -⟩ := h30.ends
    simp only [hdiff] at hcalls hmem
    refine ⟨n, t, events, drawn, hlines, hlen, hactive, hengine, hmem, ?_⟩
    rw [hdev, hmem]
    exact ⟨rfl, rfl, rfl, rfl, rfl, rfl, rfl, rfl, htrace, hcalls⟩

end Sys2Proof.Machine
end

section
/-! SUPPORT. The frame of `IRQ` (R225, R341, R343): whatever part of an activation is run, the Host stands, the engine's binding
stands, and memory changes only in the batch's range. -/

namespace Sys2Proof.Machine

/-! ### The engine's binding -/

/-- What no line of the Handler changes of the engine record. -/
structure KeepsBinding (s t : State) : Prop where
  baseAddress : t.engine.baseAddress = s.engine.baseAddress
  isReady : t.engine.isReady = s.engine.isReady
  slaveSelect : t.engine.slaveSelect = s.engine.slaveSelect
  statusCallback : t.engine.statusCallback = s.engine.statusCallback
  callbackContext : t.engine.callbackContext = s.engine.callbackContext
  totalBytes : t.engine.totalBytes = s.engine.totalBytes

theorem KeepsBinding.of_engine {s t : State} (h : t.engine = s.engine) : KeepsBinding s t := by
  constructor <;> rw [h]

theorem KeepsBinding.trans {s t u : State} (h₁ : KeepsBinding s t) (h₂ : KeepsBinding t u) : KeepsBinding s u :=
  ⟨h₂.baseAddress.trans h₁.baseAddress, h₂.isReady.trans h₁.isReady, h₂.slaveSelect.trans h₁.slaveSelect,
    h₂.statusCallback.trans h₁.statusCallback, h₂.callbackContext.trans h₁.callbackContext,
    h₂.totalBytes.trans h₁.totalBytes⟩

/-- The other fields are the ones an activation may write. -/
theorem KeepsBinding.engine {s t : State} (h : KeepsBinding s t) :
    t.engine = { s.engine with
      isBusy := t.engine.isBusy
      sendBuffer := t.engine.sendBuffer
      recvBuffer := t.engine.recvBuffer
      requestedBytes := t.engine.requestedBytes
      remainingBytes := t.engine.remainingBytes } := by
  dsimp only
  rw [← h.baseAddress, ← h.isReady, ← h.slaveSelect, ← h.statusCallback, ← h.callbackContext, ← h.totalBytes]

theorem subLine_binding {a : Agent} {q : SubLine} {s t : State} (h : subLine a q s = .next t) : KeepsBinding s t := by
  cases q <;> simp only [subLine, fillF1, fillF2, fillF3, fillF4, fillF5, fillF6, fillF7, drainD1, drainD2, drainD3,
    drainD4, drainD5, drainD6, drainD7, startM1, startM2, startM3, deassertC1, deassertC2, deassertC3, abortA2, abortA3,
    abortA4, abortA5, abortA6, abortA7, abortA8, abortA9, regWrite_cr, regWrite_sr, regWrite_er, readCrLocal_eq,
    readSrLocal_eq] at h
  case f3 =>
    split at h
    · cases h
    · obtain ⟨-, -, h⟩ := memRead_next h
      cases h; exact .of_engine (by simp)
  case f4 =>
    rw [regWrite_txd] at h
    split at h <;> cases h
    exact .of_engine (by simp)
  case d2 | a5 =>
    rcases hr : s.dev.rxFifo with _ | ⟨b, rest⟩
    · rw [regRead_rxd_nil hr] at h; cases h; exact .of_engine (by simp)
    · rw [regRead_rxd_cons hr] at h; cases h; exact .of_engine (by simp)
  case d4 =>
    split at h
    · cases h; exact .of_engine (by simp)
    · obtain ⟨-, -, h⟩ := memWrite_next h
      cases h; exact .of_engine (by simp)
  case f5 | d5 | a8 | a9 => cases h; constructor <;> simp
  case f6 | d6 => split at h <;> cases h; constructor <;> simp
  case f2 | d1 | d3 | m2 | c2 | a4 => split at h <;> cases h <;> exact .of_engine (by simp)
  all_goals cases h; exact .of_engine (by simp)

theorem handlerLine_binding {l : HandlerLine} {s t : State} (h : handlerLine l s = .next t) : KeepsBinding s t := by
  cases l <;> simp only [handlerLine, readSrLocal_eq, regWrite_sr, regWrite_idr, regWrite_ier, regWrite_er] at h
  case h6 | h10 | h11 | h14 | h19 | h23 | h28 =>
    exact (KeepsBinding.of_engine (by simp)).trans (subLine_binding h)
  case h5 | h9 | h21 | h26 => obtain ⟨-, h⟩ := diff_next h; cases h; exact .of_engine rfl
  case h7 | h17 | h24 | h29 => obtain ⟨_, -, h⟩ := callback_next h; cases h; exact .of_engine rfl
  case h15 | h22 | h27 => cases h; exact ⟨rfl, rfl, rfl, rfl, rfl, rfl⟩
  case h4 | h8 | h12 | h20 | h25 => split at h <;> cases h <;> exact .of_engine rfl
  all_goals cases h; exact .of_engine rfl

theorem handlerStep_binding {s t : State} (h : handlerStep s = .next t) : KeepsBinding s t := by
  unfold handlerStep at h
  split at h
  · exact handlerLine_binding h
  · exact subLine_binding h

/-! ### How far the drain is -/

/-- The lines from `H1` to the call of the drain; those of a mode fault never come to it. -/
def linesToDrain : List HandlerLine := [.h1, .h2, .h3, .h4, .h8, .h9]

/-- The batch in flight and the receive cursor are those of `s₀`. -/
structure SameBatch (s₀ s : State) : Prop where
  recvBuffer : s.engine.recvBuffer = s₀.engine.recvBuffer
  requestedBytes : s.engine.requestedBytes = s₀.engine.requestedBytes
  remainingBytes : s.engine.remainingBytes = s₀.engine.remainingBytes

/-- The receive cursor, if there is one, is inside the range of the batch in flight in `s₀`, and so are the `k` bytes from it on,
but for `slack` bytes that the cursor is ahead of the count. -/
def CursorWithin (s₀ s : State) (slack : Nat) : Prop :=
  ∀ c, s.engine.recvBuffer = some c →
    ∃ r, s₀.engine.recvBuffer = some r ∧ r ≤ c ∧ c + s.handlerLoc.k.toNat ≤ r + batchInFlight s₀ + slack

/-- The bound on the cursor at each line of the drain: `D5` moves it on, `D7` counts. -/
structure DrainBound (s₀ s : State) (q : SubLine) : Prop where
  count : q ≠ .d1 → s.handlerLoc.k ≠ 0#32
  cursor : CursorWithin s₀ s (if q = .d6 ∨ q = .d7 then 1 else 0)

/-- How far an activation that began in `s₀` is: before its drain nothing of the batch has changed, and in the drain the cursor is
in the batch's range. -/
structure DrainStage (s₀ s : State) : Prop where
  position : handlerPositionOk s.handlerPc = true
  before : s.handlerActive = true → ∀ l ∈ linesToDrain, s.handlerPc = .line l → SameBatch s₀ s
  call : s.handlerActive = true → s.handlerPc = .line .h10 → CursorWithin s₀ s 0
  inside : ∀ q, s.handlerPc = .sub .h10 q → DrainBound s₀ s q

/-- The activation has its drain behind it, or none to come. -/
structure PastDrain (s : State) : Prop where
  line : s.handlerActive = true → ∀ l ∈ .h10 :: linesToDrain, s.handlerPc ≠ .line l
  sub : ∀ q, s.handlerPc ≠ .sub .h10 q

theorem PastDrain.stage {s₀ s : State} (h : PastDrain s) (hp : handlerPositionOk s.handlerPc = true) : DrainStage s₀ s where
  position := hp
  before ha l hl hpc := absurd hpc (h.line ha l (List.mem_cons_of_mem _ hl))
  call ha hpc := absurd hpc (h.line ha _ List.mem_cons_self)
  inside q hpc := absurd hpc (h.sub q)

theorem PastDrain.goes {s : State} {l : HandlerLine} (hp : s.handlerPc = .line l) (hl : l ∉ .h10 :: linesToDrain) :
    PastDrain s := by
  constructor
  · rintro - l' hl' hp'
    obtain rfl : l = l' := by simpa [hp] using hp'
    exact hl hl'
  · simp [hp]

theorem afterHandlerCall_past {c : HandlerLine} (h : handlerCalls c ≠ none) (hc : c ≠ .h10) :
    afterHandlerCall c ∉ .h10 :: linesToDrain := by
  revert h hc
  cases c <;> decide

/-- A sub-sequence other than the drain is past it, inside and at its return. -/
theorem PastDrain.call {s : State} {c : HandlerLine} (hcall : handlerCalls c ≠ none) (hc : c ≠ .h10)
    (hp : (∃ q, s.handlerPc = .sub c q) ∨ s.handlerPc = .line (afterHandlerCall c)) : PastDrain s := by
  rcases hp with ⟨q, hp⟩ | hp
  · exact ⟨fun _ l _ => by simp [hp], fun q' => by simp [hp, hc]⟩
  · exact .goes hp (afterHandlerCall_past hcall hc)

/-- A line past the drain does not lead back to it: it goes on past it, or the Handler returns. -/
theorem handlerLine_past {l : HandlerLine} {s t : State} (hl : l ∉ .h10 :: linesToDrain) (hp : s.handlerPc = .line l)
    (h : handlerLine l s = .next t) : PastDrain t := by
  have hreturn : ∀ u, PastDrain (trapReturn u) := fun u => ⟨nofun, nofun⟩
  cases l <;> simp only [handlerLine, readSrLocal_eq, regWrite_sr, regWrite_idr, regWrite_ier, regWrite_er] at h
  case h1 | h2 | h3 | h4 | h8 | h9 | h10 => simp [linesToDrain] at hl
  case h6 | h11 | h14 | h19 | h23 | h28 =>
    refine PastDrain.call ?_ ?_ ((callSub_handler hp h).1.imp_left fun ⟨q, _, hq⟩ => ⟨q, hq⟩) <;> decide
  case h5 | h21 | h26 => obtain ⟨-, h⟩ := diff_next h; cases h; exact .goes rfl (by decide)
  case h7 => obtain ⟨_, -, h⟩ := callback_next h; cases h; exact hreturn _
  case h17 | h24 | h29 => obtain ⟨_, -, h⟩ := callback_next h; cases h; exact .goes rfl (by decide)
  case h30 => cases h; exact hreturn _
  case h12 | h20 | h25 => split at h <;> cases h <;> exact .goes rfl (by decide)
  all_goals cases h; exact .goes rfl (by decide)

/-- At a line before the drain's call the batch stands. -/
theorem DrainStage.of_same {s₀ s : State} {l : HandlerLine} (hp : s.handlerPc = .line l) (hl : l ≠ .h10)
    (hs : SameBatch s₀ s) : DrainStage s₀ s where
  position := by rw [hp]; rfl
  before _ _ _ _ := hs
  call _ hpc := absurd (by simpa [hp] using hpc) hl
  inside q hpc := by simp [hp] at hpc

theorem SameBatch.of_engine {s₀ s t : State} (hs : SameBatch s₀ s) (h : t.engine = s.engine) : SameBatch s₀ t := by
  constructor <;> rw [h]
  exacts [hs.recvBuffer, hs.requestedBytes, hs.remainingBytes]

theorem CursorWithin.of_eq {s₀ s t : State} {n : Nat} (hs : CursorWithin s₀ s n)
    (hr : t.engine.recvBuffer = s.engine.recvBuffer) (hk : t.handlerLoc.k = s.handlerLoc.k) : CursorWithin s₀ t n := by
  unfold CursorWithin
  rw [hr, hk]
  exact hs

/-- The lines before the drain leave the batch alone, and `H9` counts it. -/
theorem handlerLine_toDrain {l : HandlerLine} {s₀ s t : State} (hl : l ∈ linesToDrain) (hs : SameBatch s₀ s)
    (h : handlerLine l s = .next t) : DrainStage s₀ t := by
  cases l <;> simp only [handlerLine, readSrLocal_eq, regWrite_sr, regWrite_idr, regWrite_ier, regWrite_er] at h
  case h1 | h2 | h3 => cases h; exact .of_same rfl (by decide) (hs.of_engine rfl)
  case h4 | h8 => split at h <;> cases h <;> exact .of_same rfl (by decide) (hs.of_engine rfl)
  case h9 =>
    obtain ⟨-, h⟩ := diff_next h
    cases h
    refine ⟨rfl, fun _ l hl hp => ?_, fun _ _ c hc => ⟨c, hs.recvBuffer ▸ hc, le_rfl, ?_⟩, nofun⟩
    · obtain rfl : HandlerLine.h10 = l := by simpa using hp
      simp [linesToDrain] at hl
    · simp [batchInFlight, hs.requestedBytes, hs.remainingBytes]
  all_goals simp [linesToDrain] at hl

/-- Where the drain goes on at a line, the bound there is all there is to show. -/
theorem DrainBound.goSub {s₀ s u : State} {q q' : SubLine} (hp : s.handlerPc = .sub .h10 q) (hu : u.handlerPc = s.handlerPc)
    (hb : DrainBound s₀ u q') :
    ∀ q'', (Machine.goSub .handler q' u).handlerPc = .sub .h10 q'' → DrainBound s₀ (Machine.goSub .handler q' u) q'' := by
  intro q'' hq
  rw [goSub_handlerPc_sub (hu.trans hp)] at hq
  obtain rfl : q' = q'' := by simpa using hq
  exact ⟨by simpa using hb.count, hb.cursor.of_eq (by simp) (by simp)⟩

/-- Each line of the drain keeps its bound. -/
theorem subLine_drainBound {q : SubLine} {s₀ s t : State} (hq : q.sequence = .drain) (hp : s.handlerPc = .sub .h10 q)
    (hb : DrainBound s₀ s q) (h : subLine .handler q s = .next t) :
    ∀ q', t.handlerPc = .sub .h10 q' → DrainBound s₀ t q' := by
  obtain ⟨hk, hc⟩ := hb
  cases q <;> cases hq <;> simp only [subLine, drainD1, drainD2, drainD3, drainD4, drainD5, drainD6, drainD7] at h
  case d1 =>
    split at h <;> cases h
    · intro q' hq'
      rw [returnToCaller_handlerPc_sub hp] at hq'
      cases hq'
    · next hk0 => exact .goSub hp rfl ⟨fun _ => hk0, hc⟩
  case d2 =>
    rcases hr : s.dev.rxFifo with _ | ⟨b, rest⟩
    · rw [regRead_rxd_nil hr] at h
      cases h; exact .goSub hp (by simp) ⟨fun _ => by simpa using hk (by decide), hc.of_eq (by simp) (by simp)⟩
    · rw [regRead_rxd_cons hr] at h
      cases h; exact .goSub hp (by simp) ⟨fun _ => by simpa using hk (by decide), hc.of_eq (by simp) (by simp)⟩
  case d3 =>
    split at h <;> cases h
    · next hr => exact .goSub hp rfl ⟨fun _ => hk (by decide), by simp [CursorWithin, hr]⟩
    · exact .goSub hp rfl ⟨fun _ => hk (by decide), hc⟩
  case d4 =>
    split at h
    · next hr => cases h; exact .goSub hp rfl ⟨fun _ => hk (by decide), by simp [CursorWithin, hr]⟩
    · obtain ⟨-, -, h⟩ := memWrite_next h
      cases h; exact .goSub hp rfl ⟨fun _ => hk (by decide), hc.of_eq rfl rfl⟩
  case d5 =>
    cases h
    refine .goSub hp rfl ⟨fun _ => hk (by decide), fun c hc' => ?_⟩
    obtain ⟨c₀, hc₀, rfl⟩ := Option.map_eq_some_iff.1 hc'
    obtain ⟨r, hr, hle, hend⟩ := hc c₀ hc₀
    refine ⟨r, hr, by omega, ?_⟩
    simp at hend ⊢
    omega
  case d6 =>
    split at h <;> cases h
    exact .goSub hp rfl ⟨fun _ => hk (by decide), hc.of_eq rfl rfl⟩
  case d7 =>
    cases h
    have hk0 := hk (by decide)
    refine .goSub hp rfl ⟨fun hne => absurd rfl hne, fun c hc' => ?_⟩
    obtain ⟨r, hr, hle, hend⟩ := hc c (by simpa using hc')
    have hcount : (s.handlerLoc.k - 1#32).toNat = s.handlerLoc.k.toNat - 1 := by bv_omega
    have hpos : 0 < s.handlerLoc.k.toNat := by bv_omega
    refine ⟨r, hr, hle, ?_⟩
    simp [hcount] at hend ⊢
    omega

/-- A line of the drain stays in it under the bound, or is the last. -/
theorem drainLine_stage {q : SubLine} {s₀ s t : State} (hq : q.sequence = .drain) (hp : s.handlerPc = .sub .h10 q)
    (hb : DrainBound s₀ s q) (h : subLine .handler q s = .next t) : DrainStage s₀ t := by
  have hinside := subLine_drainBound hq hp hb h
  rcases (subLine_move h).handler hp with ⟨q', hq', hp'⟩ | hp'
  · exact ⟨by simp [hp', handlerPositionOk, handlerCalls, hq', hq], by simp [hp'], by simp [hp'], hinside⟩
  · exact (PastDrain.goes hp' (by decide)).stage (by rw [hp']; rfl)

/-- Every line of an activation leads to its next stage. -/
theorem handlerStep_drainStage {s₀ s t : State} (hs : DrainStage s₀ s) (ha : s.handlerActive = true)
    (h : handlerStep s = .next t) : DrainStage s₀ t := by
  have hpos : handlerPositionOk t.handlerPc = true := (handlerStep_move h).control.positionOk hs.position
  unfold handlerStep at h
  split at h
  · next l hp =>
    by_cases hl : l ∈ .h10 :: linesToDrain
    · rcases List.mem_cons.1 hl with rfl | hl
      · have hcursor : CursorWithin s₀ (goSub .handler .d1 s) 0 := (hs.call ha hp).of_eq (by simp) (by simp)
        exact drainLine_stage (q := .d1) rfl (goSub_handlerPc_line hp _) ⟨fun hne => absurd rfl hne, hcursor⟩ h
      · exact handlerLine_toDrain hl (hs.before ha l hl hp) h
    · exact (handlerLine_past hl hp h).stage hpos
  · next c q hp =>
    have hcall : handlerCalls c = some q.sequence := by simpa [hp, handlerPositionOk] using hs.position
    by_cases hc : c = .h10
    · subst hc
      exact drainLine_stage (by simpa [handlerCalls, eq_comm] using hcall) hp (hs.inside q hp) h
    · refine (PastDrain.call (by simp [hcall]) hc ?_).stage hpos
      exact ((subLine_move h).handler hp).imp_left fun ⟨q', _, hq'⟩ => ⟨q', hq'⟩

/-! ### The frame -/

/-- The address is not one the activation's drain stores to. -/
def OutsideBatch (s₀ : State) (a : Nat) : Prop :=
  ∀ r, s₀.engine.recvBuffer = some r → a < r ∨ r + batchInFlight s₀ ≤ a

/-- Only the drain's `D4` writes memory, at a cursor in the batch's range. -/
theorem handlerStep_memory {s₀ s t : State} {a : Nat} (hs : DrainStage s₀ s) (h : handlerStep s = .next t)
    (ha : OutsideBatch s₀ a) : Memory.read t.mem a = Memory.read s.mem a := by
  rcases lineStep_mem (a := .handler) h with hm | ⟨⟨c, hp⟩, r, hr, -, hm⟩
  · rw [hm]
  · have hcall : handlerCalls c = some (SubLine.sequence .d4) := by simpa [hp, handlerPositionOk] using hs.position
    obtain rfl : c = .h10 := by
      revert hcall
      cases c <;> decide
    obtain ⟨hk, hcursor⟩ := hs.inside .d4 hp
    obtain ⟨r₀, hr₀, hle, hend⟩ := hcursor r hr
    have hpos : 0 < s.handlerLoc.k.toNat := by have := hk (by decide); bv_omega
    have hend' : r < r₀ + batchInFlight s₀ := by simp at hend; omega
    have hne : a ≠ r := by rcases ha r₀ hr₀ with ha | ha <;> omega
    rw [hm, Memory.read_write_other _ _ hne]

theorem LineFrame.trans {a : Agent} {s t u : State} (h₁ : LineFrame a s t) (h₂ : LineFrame a t u) : LineFrame a s u where
  params := h₂.params.trans h₁.params
  schedule := h₂.schedule.trans h₁.schedule
  stream := h₂.stream.trans h₁.stream
  trace := h₁.trace.trans h₂.trace
  other := by
    have ho₁ := h₁.other
    have ho₂ := h₂.other
    cases a <;> exact ⟨ho₂.1.trans ho₁.1, ho₂.2.1.trans ho₁.2.1, ho₂.2.2.trans ho₁.2.2⟩

/-- What holds wherever an activation that began in `s₀` has come to. -/
structure ActivationFrame (s₀ s : State) : Prop where
  frame : LineFrame .handler s₀ s
  binding : KeepsBinding s₀ s
  stage : DrainStage s₀ s
  memory : ∀ a, OutsideBatch s₀ a → Memory.read s.mem a = Memory.read s₀.mem a

theorem ActivationFrame.entry (s : State) : ActivationFrame s (trapEntry s) where
  frame := ⟨rfl, rfl, rfl, List.prefix_append _ _, rfl, rfl, rfl⟩
  binding := .of_engine rfl
  stage := .of_same (l := .h1) rfl (by decide) ⟨rfl, rfl, rfl⟩
  memory _ _ := rfl

theorem ActivationFrame.line {s₀ s t : State} (hs : ActivationFrame s₀ s) (hr : running .handler s = true)
    (h : lineStep .handler s = .next t) : ActivationFrame s₀ t where
  frame := hs.frame.trans (lineStep_frame h)
  binding := hs.binding.trans (handlerStep_binding h)
  stage := handlerStep_drainStage hs.stage hr h
  memory a ha := (handlerStep_memory hs.stage h ha).trans (hs.memory a ha)

/-- Settles O30: the frame holds at trap entry and is kept by every line of the Handler, however many are run. -/
theorem irqFrame : Obligations.IrqFrame := by
  unfold Obligations.IrqFrame
  intro s t h
  rcases startHandler_next h with ⟨-, rfl⟩ | ⟨-, h⟩
  · exact ⟨rfl, rfl, rfl, rfl, rfl, rfl, List.prefix_rfl, rfl, fun _ _ => rfl⟩
  · obtain ⟨hframe, hbinding, -, hmemory⟩ :=
      runAhead_keeps (P := ActivationFrame s) (fun _ _ hs hr hl => hs.line hr hl) (.entry s) h
    obtain ⟨hpc, hops, hloc⟩ := hframe.other
    exact ⟨hframe.params, hframe.stream, hframe.schedule, hpc, hops, hloc, hframe.trace, hbinding.engine, hmemory⟩

end Sys2Proof.Machine
end

section
/-! SUPPORT. The encoding statements (R121, R125 to R128): the decoder answers by the command's own checks and operands once
its word is one of that command's. -/

namespace Sys2Proof

/-! ### The fields of a command word -/

/-- The decoder's command numbering and the encoder's are one (R125). -/
theorem commandOfOpc_eq_some {opc : Byte} {c : Command} : commandOfOpc opc = some c ↔ opc = c.opc := by
  constructor
  · intro h
    simp only [commandOfOpc] at h
    split_ifs at h <;> cases h <;> assumption
  · rintro rfl
    cases c <;> rfl

theorem Command.opc_injective : Function.Injective Command.opc := by
  intro c d h
  exact Option.some.inj ((commandOfOpc_eq_some.2 rfl).symm.trans (commandOfOpc_eq_some.2 h))

/-- The reserved command numbers are no command's (R126). -/
theorem Command.opc_not_reserved (c : Command) : ¬ (c.opc = 0x00#8 ∨ 0x0B#8 ≤ c.opc) := by
  cases c <;> decide

/-- An `ARG8` that `CONFIGURE` admits holds its three option bits and nothing else (R126, R128). -/
theorem arg8_eq_options {arg8 : Byte} (h : arg8.extractLsb' 3 5 = 0#5) : arg8 = (arg8.extractLsb' 0 3).setWidth 8 := by
  have hn := congrArg BitVec.toNat h
  apply BitVec.eq_of_toNat_eq
  simp only [BitVec.extractLsb'_toNat, BitVec.toNat_setWidth, BitVec.toNat_ofNat, Nat.shiftRight_eq_div_pow] at hn ⊢
  omega

/-- The option bits are the low bits of the `ARG8` they are packed in (R128). -/
theorem options_of_arg8 (opts : BitVec 3) :
    (opts.setWidth 8).extractLsb' 0 3 = opts ∧ (opts.setWidth 8).extractLsb' 3 5 = 0#5 := by
  decide +revert

/-- A mask that leaves `ARG8` out leaves the other fields (R122). -/
theorem packWord_and_arg8Mask (opc arg8 : Byte) (txv rxv : Bool) :
    packWord opc arg8 txv rxv &&& 0xFFFF00FF#32 = packWord opc 0#8 txv rxv := by
  apply BitVec.eq_of_getLsbD_eq
  intro j hj
  interval_cases j <;> simp [packWord]

/-! ### The decoder -/

theorem accept_eq_ok {i j : Instr} {args rest : List Word} :
    accept i args = .ok j rest ↔ j.wellFormed = true ∧ i = j ∧ args = rest := by
  unfold accept
  constructor
  · intro h
    split at h
    · next hi => cases h; exact ⟨hi, rfl, rfl⟩
    · cases h
  · rintro ⟨hj, rfl, rfl⟩
    exact if_pos hj

/-- Past the checks of the command word, the decoder's answer is the operands' (R127). -/
theorem decode_checked {cw : Word} {c : Command} {args : List Word} (hr : cwRsv cw = 0#14)
    (hc : commandOfOpc (cwOpc cw) = some c) (ha : arg8Ok c (cwArg8 cw) = true)
    (hv : validBitsOk c (cwTxv cw) (cwRxv cw) = true) :
    decode (cw :: args) = decodeOperands c (cwArg8 cw) (cwTxv cw) (cwRxv cw) args := by
  simp [decode, hr, hc, ha, hv]

/-- A word packed from fields that its command admits passes the decoder's checks (R122, R127). -/
theorem decode_packWord {c : Command} {arg8 : Byte} {txv rxv : Bool} (args : List Word) (ha : arg8Ok c arg8 = true)
    (hv : validBitsOk c txv rxv = true) :
    decode (packWord c.opc arg8 txv rxv :: args) = decodeOperands c arg8 txv rxv args := by
  obtain ⟨hopc, harg8, htxv, hrxv, hrsv⟩ := packWord_fields c.opc arg8 txv rxv
  have := decode_checked (args := args) hrsv (commandOfOpc_eq_some.2 hopc) (by rwa [harg8]) (by rwa [htxv, hrxv])
  rwa [harg8, htxv, hrxv] at this

/-- A command word is refused as illegal when its command, if it names one whose other checks pass, has illegal operands
(R126). -/
theorem decode_illegal {cw : Word} {args : List Word}
    (h : ∀ c : Command, cwOpc cw = c.opc → arg8Ok c (cwArg8 cw) = true → validBitsOk c (cwTxv cw) (cwRxv cw) = true →
      decodeOperands c (cwArg8 cw) (cwTxv cw) (cwRxv cw) args = .illegalCommand) :
    decode (cw :: args) = .illegalCommand := by
  simp only [decode]
  split_ifs
  · rfl
  · cases hc : commandOfOpc (cwOpc cw) with
    | none => rfl
    | some c =>
      dsimp only
      split_ifs with ha hv
      · rfl
      · rfl
      · exact h c (commandOfOpc_eq_some.1 hc) (by simpa using ha) (by simpa using hv)

/-- Too few argument words are refused as truncated, whatever they hold (R126, R127). -/
theorem decodeOperands_truncated {c : Command} {args : List Word} (arg8 : Byte) (txv rxv : Bool)
    (h : args.length < c.nargs) : decodeOperands c arg8 txv rxv args = .truncatedCommand := by
  cases c with
  | init => match args, h with | [], _ => rfl
  | setStatusHandler => match args, h with | [], _ => rfl | [_], _ => rfl
  | polledTransfer => match args, h with | [], _ => rfl | [_], _ => rfl | [_, _], _ => rfl
  | transfer => match args, h with | [], _ => rfl | [_], _ => rfl | [_, _], _ => rfl
  | _ => exact absurd h (Nat.not_lt_zero _)

/-- A transfer's operands with a nonzero word for an absent buffer are illegal (R126). -/
theorem decodeOperands_absentBuffer {c : Command} (hc : c = .polledTransfer ∨ c = .transfer) (arg8 : Byte) {txv rxv : Bool}
    {send recv : Word} (count : Word) (rest : List Word) (h : (txv = false ∧ send ≠ 0#32) ∨ (rxv = false ∧ recv ≠ 0#32)) :
    decodeOperands c arg8 txv rxv (send :: recv :: count :: rest) = .illegalCommand := by
  have hw : (bufferWordOk txv send && bufferWordOk rxv recv) = false := by
    obtain ⟨rfl, hs⟩ | ⟨rfl, hs⟩ := h <;> simp [bufferWordOk, hs]
  rcases hc with rfl | rfl <;> simp [decodeOperands, accept, Instr.wellFormed, hw]

/-- A command word that decodes is its command's number packed with its other fields (R122, R125). -/
theorem packed_of_decode {cw : Word} {args : List Word} {i : Instr} {rest : List Word}
    (h : decode (cw :: args) = .ok i rest) :
    cw = packWord i.command.opc (cwArg8 cw) (cwTxv cw) (cwRxv cw) := by
  obtain ⟨hrsv, hcmd, -⟩ := decode_word h
  rw [← commandOfOpc_eq_some.1 hcmd]
  exact eq_packWord cw hrsv

/-- The argument words that the checks and the operands of a command accept are those of its encoding (R125, R128). -/
theorem encode_of_decodeOperands {i : Instr} {arg8 : Byte} {txv rxv : Bool} {args rest : List Word}
    (ha : arg8Ok i.command arg8 = true) (hv : validBitsOk i.command txv rxv = true)
    (h : decodeOperands i.command arg8 txv rxv args = .ok i rest) :
    i.wellFormed = true ∧ packWord i.command.opc arg8 txv rxv :: args = encode i ++ rest := by
  simp only [arg8Ok, validBitsOk] at ha hv
  cases i with
  | init base =>
    match args, h with
    | _ :: _, h => simp_all [Instr.command, decodeOperands, accept_eq_ok, encode]
  | setStatusHandler handler ctx =>
    match args, h with
    | _ :: _ :: _, h => simp_all [Instr.command, decodeOperands, accept_eq_ok, encode]
  | polledTransfer t r send recv count =>
    match args, h with
    | _ :: _ :: _ :: _, h => simp_all [Instr.command, decodeOperands, accept_eq_ok, encode]
  | transfer t r send recv count =>
    match args, h with
    | _ :: _ :: _ :: _, h => simp_all [Instr.command, decodeOperands, accept_eq_ok, encode]
  | configure opts =>
    obtain ⟨hw, heq, rfl⟩ := accept_eq_ok.1 h
    obtain rfl : arg8.extractLsb' 0 3 = opts := Instr.configure.inj heq
    have hpack : arg8 = (arg8.extractLsb' 0 3).setWidth 8 := arg8_eq_options (beq_iff_eq.1 ha)
    simp only [Instr.command, Bool.and_eq_true, Bool.not_eq_true'] at hv
    refine ⟨hw, ?_⟩
    rw [encode, ← hpack, hv.1, hv.2]
    rfl
  | _ => simp_all [Instr.command, decodeOperands, accept_eq_ok, encode]

/-- The words of a well-formed instruction decode to it (R121, R125). -/
theorem decode_encode {i : Instr} (hi : i.wellFormed = true) (rest : List Word) : decode (encode i ++ rest) = .ok i rest := by
  have hacc : accept i rest = .ok i rest := if_pos hi
  rw [← hacc]
  cases i with
  | configure opts =>
    obtain ⟨hopts, hzero⟩ := options_of_arg8 opts
    have hd := decode_packWord (c := .configure) (arg8 := opts.setWidth 8) (txv := false) (rxv := false) rest
      (beq_iff_eq.2 hzero) rfl
    rw [decodeOperands, hopts] at hd
    exact hd
  | _ => exact decode_packWord _ rfl rfl

/-! ### The command map -/

/-- Every command has a row (R125). -/
theorem exists_row (c : Command) : ∃ r ∈ opcodeTable, r.command = c := by
  cases c <;> decide

/-- A row admits the words packed from fields that its command admits (R125, R126). -/
theorem row_admits_packWord {r : OpcodeRow} {arg8 : Byte} {txv rxv : Bool} (hr : r ∈ opcodeTable)
    (ha : arg8Ok r.command arg8 = true) (hv : validBitsOk r.command txv rxv = true) :
    r.admits (packWord r.command.opc arg8 txv rxv) = true := by
  obtain ⟨c, fixed, mask⟩ := r
  cases c with
  | setSs =>
    obtain ⟨rfl, rfl⟩ : fixed = 0x00000003#32 ∧ mask = 0xFFFF00FF#32 := by simpa [opcodeTable] using hr
    obtain ⟨rfl, rfl⟩ : txv = false ∧ rxv = false := by simpa [validBitsOk] using hv
    exact beq_iff_eq.2 (packWord_and_arg8Mask _ arg8 false false)
  | configure =>
    obtain ⟨rfl, rfl⟩ : fixed = 0x00000009#32 ∧ mask = 0xFFFFF8FF#32 := by simpa [opcodeTable] using hr
    obtain ⟨rfl, rfl⟩ : txv = false ∧ rxv = false := by simpa [validBitsOk] using hv
    rw [arg8_eq_options (beq_iff_eq.1 ha)]
    generalize arg8.extractLsb' 0 3 = opts
    decide +revert
  | polledTransfer =>
    obtain ⟨rfl, rfl⟩ : fixed = 0x00000005#32 ∧ mask = 0xFFFCFFFF#32 := by simpa [opcodeTable] using hr
    obtain rfl : arg8 = 0#8 := beq_iff_eq.1 ha
    decide +revert
  | transfer =>
    obtain ⟨rfl, rfl⟩ : fixed = 0x00000006#32 ∧ mask = 0xFFFCFFFF#32 := by simpa [opcodeTable] using hr
    obtain rfl : arg8 = 0#8 := beq_iff_eq.1 ha
    decide +revert
  | _ =>
    obtain ⟨rfl, rfl⟩ : fixed = _ ∧ mask = _ := by simpa [opcodeTable] using hr
    obtain ⟨rfl, rfl⟩ : txv = false ∧ rxv = false := by simpa [validBitsOk] using hv
    obtain rfl : arg8 = 0#8 := beq_iff_eq.1 ha
    decide

/-- A row admits only words with its command's number (R125). -/
theorem cwOpc_of_admits {r : OpcodeRow} {cw : Word} (hr : r ∈ opcodeTable) (h : r.admits cw = true) :
    cwOpc cw = r.command.opc := by
  have hrow : ∀ r ∈ opcodeTable, cwOpc r.mask = 0xFF#8 ∧ cwOpc r.fixed = r.command.opc := by decide
  obtain ⟨hmask, hfixed⟩ := hrow r hr
  have hopc : cwOpc (cw &&& r.mask) = cwOpc r.fixed := congrArg cwOpc (beq_iff_eq.1 h)
  have hand : cwOpc (cw &&& r.mask) = cwOpc cw &&& cwOpc r.mask := BitVec.extractLsb'_and ..
  rw [hand, hmask, hfixed] at hopc
  exact (BitVec.and_allOnes (x := cwOpc cw)).symm.trans hopc

/-- No two rows have one command number (R125). -/
theorem row_eq_of_opc : ∀ r ∈ opcodeTable, ∀ r' ∈ opcodeTable, r.command.opc = r'.command.opc → r = r' := by
  decide

/-! ### The statements -/

/-- Settles O1: the words are those of a packed word whose fields its command admits, and its operands are accepted. -/
theorem decodeOfEncode : Obligations.DecodeOfEncode := by
  unfold Obligations.DecodeOfEncode
  intro i hi
  have hwords : ∀ rest, decode (encode i ++ rest) = .ok i rest := decode_encode hi
  refine ⟨hwords, fun rest => ?_⟩
  rw [decodeBytes, encodeBytes, wordsOfBytes_words, hwords]

/-- Settles O2: an accepted word is its fields packed, and its command's operands encode to the words they were read from. -/
theorem encodeOfDecode : Obligations.EncodeOfDecode := by
  unfold Obligations.EncodeOfDecode
  intro words i rest h
  cases words with
  | nil => cases h
  | cons cw args =>
    obtain ⟨-, -, harg8, hvalid, hops⟩ := decode_word h
    obtain ⟨hwf, henc⟩ := encode_of_decodeOperands harg8 hvalid hops
    exact ⟨hwf, by rw [← henc, ← packed_of_decode h]⟩

/-- Settles O3: the decoded word is its fields packed, which its command's row admits; a row's words have its command's number,
and no other row has that number. -/
theorem decodedWordMatchesOneRow : Obligations.DecodedWordMatchesOneRow := by
  unfold Obligations.DecodedWordMatchesOneRow
  intro cw args i rest h
  obtain ⟨-, -, harg8, hvalid, -⟩ := decode_word h
  obtain ⟨r, hr, hcmd⟩ := exists_row i.command
  have hcw : r.admits cw = true := by
    rw [packed_of_decode h, ← hcmd]
    exact row_admits_packWord hr (by rwa [hcmd]) (by rwa [hcmd])
  refine ⟨r, hr, hcmd, hcw, fun r' hr' hadm => row_eq_of_opc r' hr' r hr ?_⟩
  rw [← cwOpc_of_admits hr' hadm, ← cwOpc_of_admits hr hcw]

/-- Settles O4: each word passes the decoder's checks for its command. -/
theorem writtenOutWordsDecode : Obligations.WrittenOutWordsDecode := by
  unfold Obligations.WrittenOutWordsDecode
  decide

/-- Settles O5: no command's word passes its checks with a field the clause names, and a command's operands run out before
its argument words do. -/
theorem illegalEncodingsRefused : Obligations.IllegalEncodingsRefused := by
  unfold Obligations.IllegalEncodingsRefused
  intro cw args
  refine ⟨fun hr => ?_, fun hopc => ?_, fun h3 h9 harg => ?_, fun h9 harg => ?_, fun h5 h6 hv => ?_, ?_, ?_⟩
  · simp [decode, hr]
  · refine decode_illegal fun c hc _ _ => absurd ?_ c.opc_not_reserved
    rwa [hc] at hopc
  · refine decode_illegal fun c hc ha _ => absurd ha ?_
    cases c with
    | setSs => exact absurd hc h3
    | configure => exact absurd hc h9
    | _ => simpa [arg8Ok] using harg
  · refine decode_illegal fun c hc ha _ => absurd ha ?_
    obtain rfl : c = .configure := Command.opc_injective (hc.symm.trans h9)
    simpa [arg8Ok] using harg
  · refine decode_illegal fun c hc _ hvalid => absurd hvalid ?_
    cases c with
    | polledTransfer => exact absurd hc h5
    | transfer => exact absurd hc h6
    | _ => rcases hv with hv | hv <;> simp [validBitsOk, hv]
  · rintro send recv rest rfl hne hopc habsent
    obtain ⟨count, rest', rfl⟩ := List.exists_cons_of_ne_nil hne
    refine decode_illegal fun c hc _ _ => decodeOperands_absentBuffer ?_ _ _ _ habsent
    exact hopc.imp (fun h => Command.opc_injective (hc.symm.trans h)) fun h => Command.opc_injective (hc.symm.trans h)
  · intro c hc hr ha hv hlen
    rw [decode_checked hr hc ha hv, decodeOperands_truncated _ _ _ hlen]

end Sys2Proof
end

section
/-! SUPPORT. What a free Host's step answers when its stream does not hold a command of its own (R126). -/

namespace Sys2Proof.Machine

/-- A free Host's step is a fetch from its stream, where nothing else can step or the draw leaves the step to the sequencer
(R31, R33). -/
theorem step_fetches {s : State} (hf : HostFree s)
    (h : otherEnabled s = false ∨ (otherEnabled s = true ∧ ∃ moves, s.schedule = .sequencer :: moves)) :
    ∃ u : State, u.stream = s.stream ∧ step s = fetch u := by
  obtain ho | ⟨ho, moves, hm⟩ := h
  · exact ⟨s, rfl, by rw [step_undisturbed ho, sequencerStep_free hf]⟩
  · have hf' : HostFree { s with schedule := moves } := hf
    exact ⟨{ s with schedule := moves }, rfl, (step_drawn ho hm).trans (sequencerStep_free hf')⟩

/-- A fetch from a stream that holds words refuses what the decoder refuses, and the platform's command (R126). -/
theorem fetch_refused {s : State} (hs : s.stream ≠ []) :
    (∀ rest, decode s.stream = .ok .irq rest → fetch s = .refused .irqFromHost) ∧
    (decode s.stream = .illegalCommand → fetch s = .refused .illegalCommand) ∧
    (decode s.stream = .truncatedCommand → fetch s = .refused .truncatedCommand) := by
  unfold fetch
  split
  · next hnil => exact absurd hnil hs
  · refine ⟨fun rest hd => ?_, fun hd => ?_, fun hd => ?_⟩ <;> rw [hd]

/-- Settles O7: the step is a fetch from the same stream. -/
theorem stepRefusesBadStream : Obligations.StepRefusesBadStream := by
  unfold Obligations.StepRefusesBadStream
  intro s hf hs ho
  obtain ⟨u, hu, hstep⟩ := step_fetches hf ho
  rw [← hu] at hs ⊢
  rw [hstep]
  exact fetch_refused hs

end Sys2Proof.Machine
end

section
/-! SUPPORT. `SET_SS` and `GET_SS` (R160 to R168): the select patterns, the two commands as runs of their lines, and the round
trip of a selection through the cache. -/

namespace Sys2Proof.Machine

/-! ### The select patterns -/

/-- A line's pattern has that line low and no other (R160). -/
theorem enc_getLsbD {k : Word} (hk : k.toNat < 4) {j : Nat} (hj : j < 4) :
    (enc k).getLsbD j = true ↔ j ≠ k.toNat := by
  have hone : (1#4 <<< k.toNat).getLsbD j = decide (j = k.toNat) := by
    rw [BitVec.getLsbD_shiftLeft, BitVec.getLsbD_one]
    grind
  rw [enc, if_pos hk, BitVec.getLsbD_not, hone]
  simp [hj]

/-- A pattern with one line low decodes to that line (R161). -/
theorem dec_of_clearBits {v : BitVec 4} {i : Nat} (h : clearBits v = [i]) : dec v = BitVec.ofNat 32 i := by
  simp [dec, h]

/-- A pattern with no line low, or more than one, decodes to `SS_NONE` (R161, R168). -/
theorem dec_of_length_ne_one {v : BitVec 4} (h : (clearBits v).length ≠ 1) : dec v = Config.ssNone := by
  unfold dec
  split
  · next i hi => simp [hi] at h
  · rfl

/-- Settles O14: the bits of `enc`, and the two cases of `dec`. -/
theorem selectPatternsEncodeAndDecode : Obligations.SelectPatternsEncodeAndDecode := by
  unfold Obligations.SelectPatternsEncodeAndDecode
  exact ⟨fun _ hk _ hj => enc_getLsbD hk hj, by decide, fun _ _ h => dec_of_clearBits h, fun _ h => dec_of_length_ne_one h⟩

/-- The one low line of a line's pattern is the line (R160, R161). -/
theorem clearBits_enc_of_lt {k : Word} (hk : k.toNat < 4) : clearBits (enc k) = [k.toNat] := by
  have hbits : clearBits (enc k) = (List.range 4).filter (· == k.toNat) := by
    refine List.filter_congr fun j hj => ?_
    rw [Bool.eq_iff_iff, Bool.not_eq_true', beq_iff_eq, Bool.eq_false_iff, Ne, enc_getLsbD hk (List.mem_range.1 hj), not_not]
  rw [hbits]
  generalize k.toNat = n at hk
  interval_cases n <;> rfl

/-- Decoding undoes encoding, for every index `SET_SS` accepts (R167). -/
theorem dec_enc {p : Params} {k : Word} (h : validIndex p k = true) : dec (enc k) = k := by
  rcases Bool.or_eq_true_iff.1 h with h | h
  · have hk : k.toNat < 4 := lt_of_lt_of_le (of_decide_eq_true h) p.linesPred.isLt
    rw [dec_of_clearBits (clearBits_enc_of_lt hk), BitVec.ofNat_toNat, BitVec.setWidth_eq]
  · rw [beq_iff_eq.1 h]; decide

/-! ### The lines -/

/-- `S1` and `S2` let a valid index on a ready engine through to `S3` (R162). -/
theorem setSsChecks_runs {C : Prop} {s : State} (hp : s.hostPc = .line (.setSs .s1)) (hready : s.engine.isReady = true)
    (hidx : validIndex s.params s.hostOps.idx = true) : Runs C .host 2 s (goHost (.setSs .s3) s) := by
  have hs1 : Runs C .host 1 s (goHost (.setSs .s2) s) :=
    .hostLine hp (if_pos hready) rfl
  have hs2 : Runs C .host 1 (goHost (.setSs .s2) s) (goHost (.setSs .s3) s) :=
    .hostLine rfl (if_pos hidx) rfl
  exact hs1.trans hs2

/-- `S6` writes the cached selection into `CR.SS`, arms no start and raises no interrupt (R162, R89). -/
theorem setSsWrite_runs {C : Prop} {s : State} (hp : s.hostPc = .line (.setSs .s6))
    (hcr : s.hostLoc.cr = crStored s.dev.cr) :
    Runs C .host 1 s (goHost (.setSs .s7) (log (.wrReg Config.offCr (crWithSs (crStored s.dev.cr) s.engine.slaveSelect))
      { s with dev := { s.dev with cr := crWithSs (crStored s.dev.cr) s.engine.slaveSelect } })) :=
  .calm (by simp [running, hp])
    (by simp [lineStep, hostStep, hp, hostLine, setSsLine, hcr, writeReg]) id (fun _ hirq => hirq)

/-- `S3` to `S7` on an idle engine cache the pattern of the index, write it into `CR.SS` and return `SUCCESS` (R162). -/
theorem setSsSelect_runs {C : Prop} {s : State} (hp : s.hostPc = .line (.setSs .s3)) (hbusy : s.engine.isBusy = false) :
    Runs C .host 5 s { s with
      engine := { s.engine with slaveSelect := enc s.hostOps.idx }
      dev := { s.dev with cr := crWithSs (crStored s.dev.cr) (enc s.hostOps.idx) }
      hostPc := .idle
      hostOps := HostOps.none
      hostLoc := Locals.fresh
      trace := s.trace ++ [.rdReg Config.offCr (crStored s.dev.cr),
        .wrReg Config.offCr (crWithSs (crStored s.dev.cr) (enc s.hostOps.idx)), .ret .setSs (some Config.success)] } := by
  have hs3 : Runs C .host 1 s (goHost (.setSs .s4) s) := .hostLine hp (by simp [hostLine, setSsLine, hbusy]) rfl
  have hs4 := Runs.hostLine (C := C) (l := .setSs .s4) (s := goHost (.setSs .s4) s) rfl rfl rfl
  have hs5 := hs4.trans (.hostLine (l := .setSs .s5) rfl rfl rfl)
  have hs6 := hs5.trans (setSsWrite_runs rfl rfl)
  have hs7 := hs6.trans (.hostLine (l := .setSs .s7) rfl rfl rfl)
  have hrun := hs3.trans hs7
  simpa [hostReturn, log, goHost, setLocals, readReg] using hrun

/-! ### The commands -/

/-- `command_of_runs` for a run that needs no side condition. -/
theorem command_of_unconditional_runs {i : Instr} {l : HostLine} {n : Nat} {s t : State} (hl : firstLine i = some l)
    (hi : exec i s = issue (operands i) l s) (h : Runs True .host n (started (operands i) l s) t) (ht : t.hostPc = .idle)
    (hn : n ≤ aheadBound s + 1) :
    (∃ n, commandLines i n s = .next t) ∧ (HostFree s → Undisturbed s → exec i s = .next t) :=
  (command_of_runs hl hi h ht hn).imp_right fun hexec hf hs => hexec hf hs trivial

/-- Settles O10: `S1` and `S2`, then `S3` to `S7`, as one run. -/
theorem setSsSelectsLine : Obligations.SetSsSelectsLine := by
  unfold Obligations.SetSsSelectsLine
  intro s t idx hready hbusy hidx ht
  have hrun : Runs True .host 7 (started (setSsOps idx) (.setSs .s1) s) t := by
    rw [ht]
    exact (setSsChecks_runs (s := started (setSsOps idx) (.setSs .s1) s) rfl hready hidx).trans (setSsSelect_runs rfl hbusy)
  exact command_of_unconditional_runs (i := .setSs idx) rfl rfl hrun (by rw [ht]) (by simp only [aheadBound]; omega)

/-- Settles O11: `S1` and `S2`, then `S3` returns. -/
theorem setSsWhileBusyReturnsBusy : Obligations.SetSsWhileBusyReturnsBusy := by
  unfold Obligations.SetSsWhileBusyReturnsBusy
  intro s t idx hready hbusy hidx ht
  have hchecks := setSsChecks_runs (C := True) (s := started (setSsOps idx) (.setSs .s1) s) rfl hready hidx
  have hs3 : Runs True .host 1 (goHost (.setSs .s3) (started (setSsOps idx) (.setSs .s1) s)) t :=
    .hostLine rfl (by rw [ht]; exact if_pos hbusy) (by rw [ht]; rfl)
  exact command_of_unconditional_runs (i := .setSs idx) rfl rfl (hchecks.trans hs3) (by rw [ht])
    (by simp only [aheadBound]; omega)

/-- Settles O12: `G1`, then `G2` returns. -/
theorem getSsReturnsCachedLine : Obligations.GetSsReturnsCachedLine := by
  unfold Obligations.GetSsReturnsCachedLine
  intro s t hready ht
  have hg1 : Runs True .host 1 (started HostOps.none (.getSs .g1) s)
      (goHost (.getSs .g2) (started HostOps.none (.getSs .g1) s)) :=
    .hostLine rfl (if_pos hready) rfl
  have hg2 : Runs True .host 1 (goHost (.getSs .g2) (started HostOps.none (.getSs .g1) s)) t :=
    .hostLine rfl (by rw [ht]; rfl) (by rw [ht]; rfl)
  exact command_of_unconditional_runs (i := .getSs) rfl rfl (hg1.trans hg2) (by rw [ht])
    (by simp only [aheadBound]; omega)

/-- Settles O13: the end of `SET_SS` (O10) is a start of `GET_SS` (O12), whose cache decodes to the index. -/
theorem selectRoundTrip : Obligations.SelectRoundTrip := by
  unfold Obligations.SelectRoundTrip
  intro s idx hready hbusy hidx
  obtain ⟨t, ht⟩ : ∃ t : State, t = _ := ⟨_, rfl⟩
  obtain ⟨hset, hsetExec⟩ := setSsSelectsLine s t idx hready hbusy hidx ht
  obtain ⟨u, hu⟩ : ∃ u : State, u = _ := ⟨_, rfl⟩
  obtain ⟨hget, hgetExec⟩ := getSsReturnsCachedLine t u (by rw [ht]; exact hready) hu
  refine ⟨t, u, hset, hget, by simp [ht], by simp [hu, ht, dec_enc hidx], fun hf hs => ⟨hsetExec hf hs, ?_⟩⟩
  have hfree : HostFree t := ⟨by rw [ht], by rw [ht]; exact hf.2⟩
  have hcalm : Undisturbed t := by rw [ht]; exact hs
  exact hgetExec hfree hcalm

end Sys2Proof.Machine
end

section
/-! SUPPORT. The frames of `SET_SS`, `GET_SS`, `SET_STATUS_HANDLER` and `CONFIGURE` (R162, R165, R275, R280): what holds at each
line of a command that calls no sub-sequence holds wherever its meaning ends, be it at the return or before a line where another
agent can step (notes/assumptions/1.md). -/

namespace Sys2Proof.Machine

/-! ### The frame of a Host command -/

theorem HostFrame.trans {s t u : State} (h₁ : HostFrame s t) (h₂ : HostFrame t u) : HostFrame s u where
  params := h₂.params.trans h₁.params
  mem a := (h₂.mem a).trans (h₁.mem a)
  stream := h₂.stream.trans h₁.stream
  handlerActive := h₂.handlerActive.trans h₁.handlerActive
  handlerPc := h₂.handlerPc.trans h₁.handlerPc
  handlerLoc := h₂.handlerLoc.trans h₁.handlerLoc
  schedule := h₂.schedule.trans h₁.schedule
  trace := h₁.trace.trans h₂.trace

theorem started_hostFrame (o : HostOps) (l : HostLine) (s : State) : HostFrame s (started o l s) :=
  ⟨rfl, fun _ => rfl, rfl, rfl, rfl, rfl, rfl, List.prefix_rfl⟩

/-- A line of a Host command outside the sub-sequences stores nothing, so it keeps the frame. -/
theorem hostLine_hostFrame {l : HostLine} {s t : State} (hp : s.hostPc = .line l) (h : hostLine l s = .next t) :
    HostFrame s t := by
  have hl : lineStep .host s = .next t := by simpa [lineStep, hostStep, hp] using h
  have hmem : t.mem = s.mem := (lineStep_mem hl).resolve_right fun ⟨⟨c, hc⟩, _⟩ => by simp [hp] at hc
  have hf := lineStep_frame hl
  obtain ⟨ha, hpc, hloc⟩ := hf.other
  exact ⟨hf.params, fun a => by rw [hmem], hf.stream, ha, hpc, hloc, hf.schedule, hf.trace⟩

/-- Where the Host is in a command whose lines are `line k`: at one of them, with what `A` says of it, or idle after the return,
with `R`. -/
inductive InLines {L : Type} (line : L → HostLine) (A : L → State → Prop) (R : State → Prop) (u : State) : Prop where
  | stands (k : L) (hp : u.hostPc = .line (line k)) (h : A k u)
  | returned (hp : u.hostPc = .idle) (h : R u)

/-- What holds at the first line, and what each line carries to the next or to the return, holds where the command's meaning
ends: `R` is what is left of it at any line and after the return. -/
theorem issue_frame {L : Type} {line : L → HostLine} {A : L → State → Prop} {R : State → Prop} {o : HostOps} {k : L}
    {s t : State} (hstart : A k (started o (line k) s)) (hstop : ∀ k u, A k u → R u)
    (hline : ∀ k u v, A k u → hostLine (line k) u = .next v → InLines line A R v)
    (h : issue o (line k) s = .next t) : HostFrame s t ∧ R t := by
  have hkeep : ∀ u v, HostFrame s u ∧ InLines line A R u → running .host u = true → lineStep .host u = .next v →
      HostFrame s v ∧ InLines line A R v := by
    rintro u v ⟨hf, hu⟩ hr hl
    cases hu with
    | stands k hp hA =>
      have hk : hostLine (line k) u = .next v := by simpa [lineStep, hostStep, hp] using hl
      exact ⟨hf.trans (hostLine_hostFrame hp hk), hline k u v hA hk⟩
    | returned hp hR => simp [running, hp] at hr
  obtain ⟨-, u, hu, hrun⟩ := issue_next h
  have hfirst := hkeep _ u ⟨started_hostFrame o _ s, .stands k rfl hstart⟩ rfl hu
  obtain ⟨hf, hin⟩ := runAhead_keeps hkeep hfirst hrun
  cases hin with
  | stands k _ hA => exact ⟨hf, hstop k t hA⟩
  | returned _ hR => exact ⟨hf, hR⟩

/-! ### `GET_SS` and `SET_STATUS_HANDLER` -/

theorem execGetSs_frame {s t : State} (h : exec .getSs s = .next t) :
    HostFrame s t ∧ t.engine = s.engine ∧ t.dev = s.dev := by
  refine issue_frame (line := .getSs) (A := fun _ u => u.engine = s.engine ∧ u.dev = s.dev) ⟨rfl, rfl⟩ (fun _ _ => id)
    (fun k u v hu hl => ?_) h
  cases k <;> simp only [hostLine, getSsLine] at hl
  case g1 => obtain ⟨-, hl⟩ := checkReady_next hl; cases hl; exact .stands .g2 rfl hu
  case g2 => cases hl; exact .returned rfl hu

/-- The engine records agree but for the callback and its context. -/
def OnlyCallback (e e' : Engine) : Prop :=
  e' = { e with statusCallback := e'.statusCallback, callbackContext := e'.callbackContext }

theorem OnlyCallback.set {e e' : Engine} (h : OnlyCallback e e') (cb : StatusCallback) (ctx : Word) :
    OnlyCallback e { e' with statusCallback := cb, callbackContext := ctx } := by
  unfold OnlyCallback at *
  rw [h]

theorem execSetStatusHandler_frame {s t : State} {handler ctx : Word}
    (h : exec (.setStatusHandler handler ctx) s = .next t) :
    HostFrame s t ∧ t.dev = s.dev ∧ OnlyCallback s.engine t.engine := by
  refine issue_frame (line := .setStatusHandler) (A := fun _ u => u.dev = s.dev ∧ OnlyCallback s.engine u.engine)
    ⟨rfl, rfl⟩ (fun _ _ => id) (fun k u v hu hl => ?_) h
  cases k <;> simp only [hostLine, setStatusHandlerLine] at hl
  case k1 => obtain ⟨-, hl⟩ := checkReady_next hl; cases hl; exact .stands .k2 rfl hu
  case k2 => split at hl <;> cases hl; exact .stands .k3 rfl hu
  case k3 => cases hl; exact .stands .k4 rfl ⟨hu.1, hu.2.set _ _⟩
  case k4 => cases hl; exact .stands .k5 rfl ⟨hu.1, hu.2.set _ _⟩
  case k5 => cases hl; exact .returned rfl hu

/-! ### `SET_SS` and `CONFIGURE` -/

/-- How far a command is that replaces `CR` by a value made of the one it reads (R162, R280): before the read, between the read
and the write, after the write. -/
inductive CrStage where
  | before
  | read
  | written

/-- `CR` is as at the start until it is written; between the read and the write the Host's local holds its value. -/
def CrStage.Holds (g : CrStage) (s u : State) (written : Word) : Prop :=
  match g with
  | .before => u.dev = s.dev
  | .read => u.dev = s.dev ∧ u.hostLoc.cr = crStored s.dev.cr
  | .written => u.dev = { s.dev with cr := written }

/-- The register blocks agree but for `CR`, which has the value it had or the one written. -/
def OnlyCr (d d' : Dev) (written : Word) : Prop :=
  d' = { d with cr := d'.cr } ∧ (d'.cr = d.cr ∨ d'.cr = written)

theorem CrStage.Holds.onlyCr {g : CrStage} {s u : State} {w : Word} (h : g.Holds s u w) : OnlyCr s.dev u.dev w := by
  cases g
  case before =>
    have hdev : u.dev = s.dev := h
    rw [hdev]; exact ⟨rfl, .inl rfl⟩
  case read => rw [h.1]; exact ⟨rfl, .inl rfl⟩
  case written =>
    have hdev : u.dev = { s.dev with cr := w } := h
    rw [hdev]; exact ⟨rfl, .inr rfl⟩

/-- The engine records agree but for the selection. -/
def OnlySelects (e e' : Engine) : Prop := e' = { e with slaveSelect := e'.slaveSelect }

theorem OnlySelects.set {e e' : Engine} (h : OnlySelects e e') (ss : BitVec 4) :
    OnlySelects e { e' with slaveSelect := ss } := by
  unfold OnlySelects at *
  rw [h]

/-- What `SET_SS`, started in `s`, writes to `CR` where it has cached the selection (R162). -/
def setSsWritten (s u : State) : Word := crWithSs (crStored s.dev.cr) u.engine.slaveSelect

/-- How far `SET_SS` is at each line. -/
def setSsStage : SetSsLine → CrStage
  | .s6 => .read
  | .s7 => .written
  | _ => .before

/-- What `SET_SS`, started in `s`, has done at a line. -/
def SetSsAt (s : State) (k : SetSsLine) (u : State) : Prop :=
  OnlySelects s.engine u.engine ∧ (setSsStage k).Holds s u (setSsWritten s u)

/-- What `SET_SS`, started in `s`, has done at any line and when it returns. -/
def SetSsDone (s u : State) : Prop := OnlySelects s.engine u.engine ∧ OnlyCr s.dev u.dev (setSsWritten s u)

theorem SetSsAt.done {s u : State} {k : SetSsLine} (h : SetSsAt s k u) : SetSsDone s u := ⟨h.1, h.2.onlyCr⟩

theorem SetSsAt.line {s u v : State} {k : SetSsLine} (hu : SetSsAt s k u) (h : setSsLine k u = .next v) :
    InLines .setSs (SetSsAt s) (SetSsDone s) v := by
  cases k <;> simp only [setSsLine, readCrLocal_eq, writeSelect_eq] at h
  case s1 => obtain ⟨-, h⟩ := checkReady_next h; cases h; exact .stands .s2 rfl hu
  case s2 => split at h <;> cases h; exact .stands .s3 rfl hu
  case s3 =>
    split at h <;> cases h
    · exact .returned rfl hu.done
    · exact .stands .s4 rfl hu
  case s4 => cases h; exact .stands .s5 rfl ⟨hu.1.set _, hu.2⟩
  case s5 =>
    obtain ⟨heng, (hdev : u.dev = s.dev)⟩ := hu
    cases h; exact .stands .s6 rfl ⟨heng, hdev, by simp [hdev]⟩
  case s6 =>
    obtain ⟨heng, hdev, hread⟩ := hu
    cases h; exact .stands .s7 rfl ⟨heng, by simp [setSsStage, CrStage.Holds, setSsWritten, writeReg, hdev, hread]⟩
  case s7 => cases h; exact .returned rfl hu.done

theorem execSetSs_frame {s t : State} {idx : BitVec 8} (h : exec (.setSs idx) s = .next t) :
    HostFrame s t ∧ SetSsDone s t :=
  issue_frame (A := SetSsAt s) (k := .s1) ⟨rfl, rfl⟩ (fun _ _ hu => hu.done) (fun _ _ _ hu hl => hu.line hl) h

/-- How far `CONFIGURE` is at each line. -/
def configureStage : ConfigureLine → CrStage
  | .n4 => .read
  | .n5 => .written
  | _ => .before

/-- What `CONFIGURE opts`, started in `s`, has done at a line (R280). -/
def ConfigureAt (s : State) (opts : BitVec 3) (k : ConfigureLine) (u : State) : Prop :=
  u.hostOps.opts = opts ∧ u.engine = s.engine ∧ (configureStage k).Holds s u (crConfigured (crStored s.dev.cr) opts)

/-- What `CONFIGURE opts`, started in `s`, has done at any line and when it returns. -/
def ConfigureDone (s : State) (opts : BitVec 3) (u : State) : Prop :=
  u.engine = s.engine ∧ OnlyCr s.dev u.dev (crConfigured (crStored s.dev.cr) opts)

theorem ConfigureAt.done {s u : State} {opts : BitVec 3} {k : ConfigureLine} (h : ConfigureAt s opts k u) :
    ConfigureDone s opts u := ⟨h.2.1, h.2.2.onlyCr⟩

theorem ConfigureAt.line {s u v : State} {opts : BitVec 3} {k : ConfigureLine} (hu : ConfigureAt s opts k u)
    (h : configureLine k u = .next v) : InLines .configure (ConfigureAt s opts) (ConfigureDone s opts) v := by
  cases k <;> simp only [configureLine, readCrLocal_eq, regWrite_cr] at h
  case n1 => obtain ⟨-, h⟩ := checkReady_next h; cases h; exact .stands .n2 rfl hu
  case n2 =>
    split at h <;> cases h
    · exact .returned rfl hu.done
    · exact .stands .n3 rfl hu
  case n3 =>
    obtain ⟨hops, heng, (hdev : u.dev = s.dev)⟩ := hu
    cases h; exact .stands .n4 rfl ⟨hops, heng, hdev, by simp [hdev]⟩
  case n4 =>
    obtain ⟨hops, heng, hdev, hread⟩ := hu
    cases h; exact .stands .n5 rfl ⟨hops, heng, by simp [configureStage, CrStage.Holds, writeReg, hops, hdev, hread]⟩
  case n5 => cases h; exact .returned rfl hu.done

theorem execConfigure_frame {s t : State} {opts : BitVec 3} (h : exec (.configure opts) s = .next t) :
    HostFrame s t ∧ ConfigureDone s opts t :=
  issue_frame (A := ConfigureAt s opts) (k := .n1) ⟨rfl, rfl, rfl⟩ (fun _ _ hu => hu.done)
    (fun _ _ _ hu hl => hu.line hl) h

/-- Settles O27: the four frames, each from what its command has done at each of its lines. -/
theorem registerCommandsFrame : Obligations.RegisterCommandsFrame := by
  unfold Obligations.RegisterCommandsFrame
  refine fun s t => ⟨fun idx h => ?_, execGetSs_frame, fun handler ctx => execSetStatusHandler_frame, fun opts h => ?_⟩
  · obtain ⟨hf, heng, hdev, hcr⟩ := execSetSs_frame h
    exact ⟨hf, heng, hdev, hcr⟩
  · obtain ⟨hf, heng, hdev, hcr⟩ := execConfigure_frame h
    exact ⟨hf, heng, hdev, hcr⟩

end Sys2Proof.Machine
end

section
/-! SUPPORT. Exchanges of a queued batch (R184, R290 to R292): in either mode each exchange takes one byte from the TX FIFO and
pushes the answer, and where a start is armed as the mode asks, a whole batch can be exchanged. -/

namespace Sys2Proof.Machine

/-- The exchange the mode enables: a master exchange where it is enabled, else a slave exchange (R290). -/
def exchangeOne (b : Byte) (s : State) : State := if masterEnabled s then masterExchange b s else slaveExchange b b s

/-- A run of exchanges takes one after another, each enabled with a byte queued. -/
theorem exchanges_cons {b : Byte} {bs : List Byte} {s t : State} (h : exchanges (b :: bs) s = some t) :
    (masterEnabled s = true ∨ slaveEnabled s = true) ∧ s.dev.txFifo ≠ [] ∧ exchanges bs (exchangeOne b s) = some t := by
  simp only [exchanges] at h
  split at h
  · next hm => exact ⟨.inl hm, ((masterEnabled_iff s).1 hm).2.2.1, by simpa [exchangeOne, hm] using h⟩
  · next hm =>
    split at h
    · next hs =>
      obtain ⟨hs, htx⟩ := Bool.and_eq_true_iff.1 hs
      exact ⟨.inr hs, by simpa using htx, by simpa [exchangeOne, hm] using h⟩
    · cases h

theorem exchanges_cons_of {b : Byte} {bs : List Byte} {s : State} (h : masterEnabled s = true ∨ slaveEnabled s = true)
    (htx : s.dev.txFifo ≠ []) : exchanges (b :: bs) s = exchanges bs (exchangeOne b s) := by
  rcases hm : masterEnabled s with _ | _
  · have hs : slaveEnabled s = true := h.resolve_left (by simp [hm])
    simp [exchanges, exchangeOne, hm, hs, htx]
  · simp [exchanges, exchangeOne, hm]

/-- What exchanges leave of a state whose TX FIFO then holds `tx` and whose RX FIFO holds `rx`: all but the start and the
trace. -/
def exchanged (s : State) (tx rx : List Byte) (armed : Bool) (trace : List Event) : State :=
  { s with dev := { s.dev with txFifo := tx, rxFifo := rx, startArmed := armed }, trace := trace }

/-- An exchange with a byte queued and room for the answer moves one byte each way (R291, R292); only the one that empties the
TX FIFO disarms a start (R293). -/
theorem exchangeOne_eq {b out : Byte} {tx : List Byte} {s : State} (htx : s.dev.txFifo = out :: tx)
    (hroom : s.dev.rxFifo.length < fifoDepth s.params) :
    ∃ armed trace, exchangeOne b s = exchanged s tx (s.dev.rxFifo ++ [b]) armed trace ∧
      (tx ≠ [] → armed = s.dev.startArmed) := by
  have hfull : s.dev.rxFifo.length ≠ fifoDepth s.params := hroom.ne
  unfold exchangeOne
  split
  · refine ⟨if tx = [] then false else s.dev.startArmed, s.trace ++ [.xchg out b (some (crSs s.dev.cr))], ?_,
      fun hne => if_neg hne⟩
    simp only [masterExchange, htx, receive, hfull, if_false, disarmIfEmpty]
    split <;> rfl
  · refine ⟨s.dev.startArmed, s.trace ++ [.xchg out b none], ?_, fun _ => rfl⟩
    simp only [slaveExchange, htx, receive, hfull, if_false]
    rfl

/-- A whole batch exchanged: the TX FIFO is empty and the answers stand behind what the RX FIFO held (R184). -/
theorem exchanges_eq {answers : List Byte} {s t : State} (h : exchanges answers s = some t)
    (hlen : answers.length = s.dev.txFifo.length) (hroom : s.dev.rxFifo.length + answers.length ≤ fifoDepth s.params) :
    ∃ armed trace, t = exchanged s [] (s.dev.rxFifo ++ answers) armed trace := by
  induction answers generalizing s with
  | nil =>
    obtain rfl : s = t := by simpa [exchanges] using h
    have htx : s.dev.txFifo = [] := List.length_eq_zero_iff.1 hlen.symm
    exact ⟨s.dev.startArmed, s.trace, by rw [List.append_nil, ← htx]; rfl⟩
  | cons b bs ih =>
    obtain ⟨-, -, hrest⟩ := exchanges_cons h
    rw [List.length_cons] at hlen hroom
    obtain ⟨out, tx, htx⟩ := List.exists_cons_of_length_eq_add_one hlen.symm
    obtain ⟨armed, trace, hone, -⟩ := exchangeOne_eq (b := b) htx (by omega)
    rw [hone] at hrest
    obtain ⟨armed', trace', rfl⟩ := ih hrest (by simpa [exchanged, htx] using hlen) (by simp [exchanged]; omega)
    exact ⟨armed', trace', by simp [exchanged]⟩

/-- The device can exchange what is queued: enabled, and with a start armed where manual start is configured in master mode
(R290). -/
def CanExchange (s : State) : Prop :=
  s.dev.en = true ∧ (crManstrtEn s.dev.cr = true → crMstren s.dev.cr = true → s.dev.startArmed = true)

theorem CanExchange.enabled {s : State} (h : CanExchange s) (htx : s.dev.txFifo ≠ []) :
    masterEnabled s = true ∨ slaveEnabled s = true := by
  obtain ⟨hen, harmed⟩ := h
  rw [masterEnabled_iff, slaveEnabled_iff]
  rcases hm : crMstren s.dev.cr with _ | _
  · exact .inr ⟨hen, rfl⟩
  · rcases hs : crManstrtEn s.dev.cr with _ | _
    · exact .inl ⟨hen, rfl, htx, .inl rfl⟩
    · exact .inl ⟨hen, rfl, htx, .inr (harmed hs hm)⟩

/-- Then a whole batch can be exchanged, whatever the other side sends. -/
theorem CanExchange.exists_exchanges {answers : List Byte} {s : State} (h : CanExchange s)
    (hlen : answers.length = s.dev.txFifo.length) (hroom : s.dev.rxFifo.length + answers.length ≤ fifoDepth s.params) :
    ∃ t, exchanges answers s = some t := by
  induction answers generalizing s with
  | nil => exact ⟨s, rfl⟩
  | cons b bs ih =>
    rw [List.length_cons] at hlen hroom
    obtain ⟨out, tx, htx⟩ := List.exists_cons_of_length_eq_add_one hlen.symm
    have hne : s.dev.txFifo ≠ [] := by rw [htx]; exact List.cons_ne_nil _ _
    rw [exchanges_cons_of (h.enabled hne) hne]
    obtain ⟨armed, trace, hone, harmed⟩ := exchangeOne_eq (b := b) htx (by omega)
    rw [hone]
    rcases bs with _ | ⟨b', bs⟩
    · exact ⟨_, rfl⟩
    · have hlen' : (b' :: bs).length = tx.length := by simpa [htx] using hlen
      have htx' : tx ≠ [] := by rintro rfl; simp at hlen'
      refine ih ⟨h.1, fun hs hm => (harmed htx').trans (h.2 hs hm)⟩ hlen' ?_
      simp [exchanged] at hroom ⊢
      omega

/-- Settles O45: the batch exchanged byte by byte, into an RX FIFO empty before. -/
theorem exchangesPairBytes : Obligations.ExchangesPairBytes := by
  unfold Obligations.ExchangesPairBytes
  intro s t answers hlen hrx hroom h
  obtain ⟨armed, trace, rfl⟩ := exchanges_eq h hlen (by rw [hrx, hlen]; simpa using hroom)
  exact ⟨rfl, by simp [exchanged, hrx], rfl, rfl, rfl⟩

end Sys2Proof.Machine
end

section
/-! SUPPORT. The start of a transfer (R187, R200, R220): the lines that `POLLED_TRANSFER` and `TRANSFER` have alike, from their
checks to the enable of the device. -/

namespace Sys2Proof.Machine

/-! ### The lines both transfers have -/

/-- The two commands that start a transfer. -/
inductive TransferKind where
  | polled
  | interrupt

/-- The lines `P1` to `P12` and `T1` to `T12`, and the one after them. -/
inductive StartLine where
  | checkReady | checkSend | checkCount | checkWrap | checkBusy | claim | buffers | counters
  | readSelect | testManual | writeSelect | enable | begun

/-- The line of `POLLED_TRANSFER` (R200) or `TRANSFER` (R220). -/
def TransferKind.line : TransferKind → StartLine → HostLine
  | .polled, .checkReady => .polled .p1
  | .polled, .checkSend => .polled .p2
  | .polled, .checkCount => .polled .p3
  | .polled, .checkWrap => .polled .p4
  | .polled, .checkBusy => .polled .p5
  | .polled, .claim => .polled .p6
  | .polled, .buffers => .polled .p7
  | .polled, .counters => .polled .p8
  | .polled, .readSelect => .polled .p9
  | .polled, .testManual => .polled .p10
  | .polled, .writeSelect => .polled .p11
  | .polled, .enable => .polled .p12
  | .polled, .begun => .polled .p13
  | .interrupt, .checkReady => .transfer .t1
  | .interrupt, .checkSend => .transfer .t2
  | .interrupt, .checkCount => .transfer .t3
  | .interrupt, .checkWrap => .transfer .t4
  | .interrupt, .checkBusy => .transfer .t5
  | .interrupt, .claim => .transfer .t6
  | .interrupt, .buffers => .transfer .t7
  | .interrupt, .counters => .transfer .t8
  | .interrupt, .readSelect => .transfer .t9
  | .interrupt, .testManual => .transfer .t10
  | .interrupt, .writeSelect => .transfer .t11
  | .interrupt, .enable => .transfer .t12
  | .interrupt, .begun => .transfer .t13

/-- The counters' line, `P8` or `T8`. -/
def TransferKind.installCounters : TransferKind → State → State
  | .polled => Machine.installCounters
  | .interrupt => installTransferCounters

@[simp] theorem TransferKind.installCounters_dev (k : TransferKind) (s : State) : (k.installCounters s).dev = s.dev := by
  cases k <;> simp [TransferKind.installCounters]
@[simp] theorem TransferKind.installCounters_mem (k : TransferKind) (s : State) : (k.installCounters s).mem = s.mem := by
  cases k <;> simp [TransferKind.installCounters]

/-! ### From the checks to the enable -/

/-- The control register with the cached selection applied in manual chip-select mode (R187). -/
def crSelected (cr : Word) (ss : BitVec 4) : Word := if crManualCs cr then crWithSs (crStored cr) ss else cr

section

variable {C : Prop} {k : TransferKind} {s : State}

/-- `P1` to `P5`, `T1` to `T5`: an idle engine's transfer with its preconditions met is accepted. -/
theorem transferChecks_runs (hp : s.hostPc = .line (k.line .checkReady)) (hready : s.engine.isReady = true)
    (hsend : s.hostOps.send ≠ none) (hcount : s.hostOps.count ≠ 0#32)
    (hwrap : (bufferWraps s.hostOps.send s.hostOps.count.toNat || bufferWraps s.hostOps.recv s.hostOps.count.toNat) = false)
    (hbusy : s.engine.isBusy = false) : Runs C .host 5 s (goHost (k.line .claim) s) := by
  have h1 : Runs C .host 1 s (goHost (k.line .checkSend) s) := .hostLine hp (by cases k <;> exact if_pos hready) rfl
  have h2 : Runs C .host 1 (goHost (k.line .checkSend) s) (goHost (k.line .checkCount) s) :=
    .hostLine rfl (by cases k <;> exact if_neg hsend) rfl
  have h3 : Runs C .host 1 (goHost (k.line .checkCount) s) (goHost (k.line .checkWrap) s) :=
    .hostLine rfl (by cases k <;> exact if_neg hcount) rfl
  have h4 : Runs C .host 1 (goHost (k.line .checkWrap) s) (goHost (k.line .checkBusy) s) :=
    .hostLine rfl (by cases k <;> exact if_neg (by simpa using hwrap)) rfl
  have h5 : Runs C .host 1 (goHost (k.line .checkBusy) s) (goHost (k.line .claim) s) :=
    .hostLine rfl (by cases k <;> exact if_neg (by simpa using hbusy)) rfl
  exact (((h1.trans h2).trans h3).trans h4).trans h5

/-- `P6` to `P8`, `T6` to `T8`: the engine is claimed and the buffers and counters installed. -/
theorem transferClaim_runs (hp : s.hostPc = .line (k.line .claim)) :
    Runs C .host 3 s (goHost (k.line .readSelect) (k.installCounters
      (goHost (k.line .counters) (installBuffers (goHost (k.line .buffers) (setBusy true s)))))) := by
  have h6 : Runs C .host 1 s (goHost (k.line .buffers) (setBusy true s)) := .hostLine hp (by cases k <;> rfl) rfl
  have h7 : Runs C .host 1 (goHost (k.line .buffers) (setBusy true s))
      (goHost (k.line .counters) (installBuffers (goHost (k.line .buffers) (setBusy true s)))) :=
    .hostLine rfl (by cases k <;> rfl) rfl
  exact (h6.trans h7).trans (.hostLine rfl (by cases k <;> rfl) (by simp))

/-- `P9` to `P11`, `T9` to `T11`: the cached selection is applied in manual chip-select mode (R187). -/
theorem transferSelect_runs (hp : s.hostPc = .line (k.line .readSelect)) :
    ∃ n t, Runs C .host n s t ∧ n ≤ 3 ∧ t.hostPc = .line (k.line .enable) ∧ t.engine = s.engine ∧
      t.dev = { s.dev with cr := crSelected s.dev.cr s.engine.slaveSelect } ∧ t.mem = s.mem := by
  obtain ⟨u, hu⟩ : ∃ u, goHost (k.line .testManual) (setCr .host (crStored s.dev.cr)
      (log (.rdReg Config.offCr (crStored s.dev.cr)) s)) = u := ⟨_, rfl⟩
  have hread : Runs C .host 1 s u := .hostLine hp (by rw [← hu]; cases k <;> rfl) (by simp [← hu])
  have hup : u.hostPc = .line (k.line .testManual) := by simp [← hu]
  have hcr : u.hostLoc.cr = crStored s.dev.cr := by simp [← hu]
  have hue : u.engine = s.engine := by simp [← hu]
  have hud : u.dev = s.dev := by simp [← hu]
  have hum : u.mem = s.mem := by simp [← hu]
  rcases hmanual : crManualCs s.dev.cr with _ | _
  · have htest : Runs C .host 1 u (goHost (k.line .enable) u) :=
      .hostLine hup (by cases k <;> exact if_pos (by rw [hcr, crManualCs_crStored, hmanual])) rfl
    exact ⟨2, _, hread.trans htest, by omega, rfl, hue, by simp [hud, crSelected, hmanual], hum⟩
  · have htest : Runs C .host 1 u (goHost (k.line .writeSelect) u) :=
      .hostLine hup (by cases k <;> exact if_neg (by simp [hcr, hmanual])) rfl
    obtain ⟨v, hv⟩ : ∃ v, goHost (k.line .enable) (log (.wrReg Config.offCr (crWithSs u.hostLoc.cr u.engine.slaveSelect))
        { goHost (k.line .writeSelect) u with dev := writeReg .cr (crWithSs u.hostLoc.cr u.engine.slaveSelect) u.dev }) = v :=
      ⟨_, rfl⟩
    have hvd : v.dev = { s.dev with cr := crSelected s.dev.cr s.engine.slaveSelect } := by
      simp [← hv, hcr, hue, hud, writeReg, crSelected, hmanual]
    have hline : lineStep .host (goHost (k.line .writeSelect) u) = .next v := by
      rw [← hv]
      cases k <;> rfl
    have hwrite : Runs C .host 1 (goHost (k.line .writeSelect) u) v :=
      .calm rfl hline (fun hen => by rw [hvd]; rw [← hud]; exact hen) (fun _ hirq => by rw [hvd]; rw [← hud]; exact hirq)
    exact ⟨3, v, (hread.trans htest).trans hwrite, by omega, by simp [← hv], by simp [← hv, hue], hvd, by simp [← hv, hum]⟩

end

/-- The total noted by a transfer's start: by `T8`, where `COMPLETE_COUNT` is `TOTAL` (R235). -/
def TransferKind.total (k : TransferKind) (p : Params) (count total : Word) : Word :=
  match k, p.completeCount with
  | .interrupt, .total => count
  | _, _ => total

/-- The engine that a transfer has claimed, with its buffers and counters installed. -/
def claimedEngine (k : TransferKind) (p : Params) (o : HostOps) (e : Engine) : Engine :=
  { e with
    isBusy := true
    sendBuffer := o.send
    recvBuffer := o.recv
    requestedBytes := o.count
    remainingBytes := o.count
    totalBytes := k.total p o.count e.totalBytes }

theorem TransferKind.installCounters_engine (k : TransferKind) (s : State) :
    (k.installCounters s).engine = { s.engine with
      requestedBytes := s.hostOps.count
      remainingBytes := s.hostOps.count
      totalBytes := k.total s.params s.hostOps.count s.engine.totalBytes } := by
  cases k with
  | polled => rfl
  | interrupt =>
    simp only [TransferKind.installCounters, installTransferCounters, TransferKind.total]
    cases s.params.completeCount <;> rfl

/-- A transfer's lines to the enable of the device, and what it then has done (R200, R220). -/
theorem transferStart_runs {k : TransferKind} {s : State} {rxv : Bool} {send recv count : Word}
    (hready : s.engine.isReady = true) (hbusy : s.engine.isBusy = false) (hcount : count ≠ 0#32)
    (hsend : bufWraps send.toNat count.toNat = false) (hrecv : bufferWraps (bufferOperand rxv recv) count.toNat = false) :
    ∃ n u t, Runs True .host n (started (transferOps true rxv send recv count) (k.line .checkReady) s) u ∧ n ≤ 11 ∧
      u.hostPc = .line (k.line .enable) ∧ lineStep .host u = .next t ∧
      t.engine = claimedEngine k s.params (transferOps true rxv send recv count) s.engine ∧
      t.dev = { s.dev with en := true, cr := crSelected s.dev.cr s.engine.slaveSelect } ∧
      t.mem = s.mem ∧ t.hostPc = .line (k.line .begun) := by
  have hchecks := transferChecks_runs (C := True) (k := k)
    (s := started (transferOps true rxv send recv count) (k.line .checkReady) s) rfl hready (by simp [transferOps, bufferOperand])
    hcount (by simpa [transferOps, bufferOperand, bufferWraps] using ⟨hsend, hrecv⟩) hbusy
  obtain ⟨n, u, hselect, hn, hup, hue, hud, hum⟩ := transferSelect_runs (C := True) (k := k)
    (s := goHost (k.line .readSelect) _) rfl
  have hrun := (hchecks.trans (transferClaim_runs rfl)).trans hselect
  have hline : lineStep .host u = .next (goHost (k.line .begun) (log (.wrReg Config.offEr 1#32)
      { u with dev := writeReg .er 1#32 u.dev })) := by
    rw [show lineStep .host u = hostStep u from rfl, hostStep, hup]
    cases k <;> rfl
  refine ⟨_, u, _, hrun, by omega, hup, hline, ?_, ?_, ?_, rfl⟩
  · simp [hue, k.installCounters_engine, claimedEngine]
  · simp [hud, writeReg, k.installCounters_engine]
  · simp [hum]

/-! ### The statements -/

/-- The command of a transfer with a send buffer. -/
def TransferKind.instr (k : TransferKind) (rxv : Bool) (send recv count : Word) : Instr :=
  match k with
  | .polled => .polledTransfer true rxv send recv count
  | .interrupt => .transfer true rxv send recv count

/-- An accepted transfer comes to the line after the enable: by its lines from any state of the device, and by its meaning,
which stops there because the device is enabled. -/
theorem transferStarts_both {k : TransferKind} {s : State} {rxv : Bool} {send recv count : Word}
    (hready : s.engine.isReady = true) (hbusy : s.engine.isBusy = false) (hcount : count ≠ 0#32)
    (hsend : bufWraps send.toNat count.toNat = false) (hrecv : bufferWraps (bufferOperand rxv recv) count.toNat = false) :
    ∃ t, (∃ n, commandLines (k.instr rxv send recv count) n s = .next t) ∧
      (inRegisterBlock s.engine (transferOps true rxv send recv count) = false → HostFree s → Undisturbed s →
        exec (k.instr rxv send recv count) s = .next t) ∧
      t.engine = claimedEngine k s.params (transferOps true rxv send recv count) s.engine ∧
      t.dev = { s.dev with en := true, cr := crSelected s.dev.cr s.engine.slaveSelect } ∧
      t.mem = s.mem ∧ t.hostPc = .line (k.line .begun) := by
  obtain ⟨n, u, t, hrun, hn, hup, hline, hte, htd, htm, htp⟩ :=
    transferStart_runs (k := k) hready hbusy hcount hsend hrecv
  have hur : running .host u = true := by simp [running, hup]
  refine ⟨t, ⟨n + 1, ?_⟩, fun hblock hf hs => ?_, hte, htd, htm, htp⟩
  · have hlines : commandLines (k.instr rxv send recv count) (n + 1) s =
        runLines .host (n + 1) (started (transferOps true rxv send recv count) (k.line .checkReady) s) := by
      cases k <;> rfl
    rw [hlines, hrun.lines, runLines_line hur hline]
    rfl
  · have hexec : exec (k.instr rxv send recv count) s =
        issueTransfer (transferOps true rxv send recv count) (k.line .checkReady) s := by
      cases k <;> rfl
    obtain ⟨m, hm⟩ := Nat.exists_eq_add_of_le (show n + 1 ≤ aheadBound s + 1 by simp only [aheadBound]; omega)
    obtain ⟨hu, hahead⟩ := hrun.ahead trivial hs
    rw [hexec, issueTransfer_clear hblock, issue_undisturbed hf hs, hm, Nat.add_assoc, hahead, Nat.add_comm 1,
      runAhead_line hur hu.otherEnabled hline]
    exact runAhead_stop (.inr (by simp [otherEnabled_eq, htd])) m

/-- Settles O21: the lines of the start, as `POLLED_TRANSFER` has them. -/
theorem polledTransferStarts : Obligations.PolledTransferStarts := by
  unfold Obligations.PolledTransferStarts
  intro s rxv send recv count hready hbusy hcount hsend hrecv hblock
  obtain ⟨t, hlines, hexec, hte, htd, htm, htp⟩ := transferStarts_both (k := .polled) hready hbusy hcount hsend hrecv
  exact ⟨t, hlines, hexec hblock, hte, htd, htm, htp⟩

/-- Settles O22: the lines of the start, as `TRANSFER` has them. -/
theorem transferStarts : Obligations.TransferStarts := by
  unfold Obligations.TransferStarts
  intro s rxv send recv count hready hbusy hcount hsend hrecv hblock
  obtain ⟨t, hlines, hexec, hte, htd, htm, htp⟩ := transferStarts_both (k := .interrupt) hready hbusy hcount hsend hrecv
  refine ⟨t, hlines, hexec hblock, ?_, htd, htm, htp⟩
  rw [hte]
  simp only [claimedEngine, TransferKind.total]
  cases s.params.completeCount <;> rfl

end Sys2Proof.Machine
end

section
/-! SUPPORT. The Host's own lines followed by what they work on, the control register as it need not be stored, and an
uninterrupted `TRANSFER` (R185, R220, R222). -/

namespace Sys2Proof.Machine

/-! ### The Host's lines -/

section

variable {s₀ : State} {calls : List Event} {last : Bool} {l l' : HostLine} {c : AgentLine} {v v' : View}

/-- The Host at a line of its own list. -/
theorem Reaches.atHostLine {s : State} (hp : s.hostPc = .line l) :
    Reaches s [] true (.line (.host l)) ⟨s.engine, s.dev, s.mem, s.hostLoc⟩ :=
  Reaches.start (p := .line (.host l)) hp

/-- One line of the Host's own list, with no event that is a callback. -/
theorem Reaches.hostLine (h : Reaches s₀ calls last (.line (.host l)) v)
    (hline : ∀ s, s.params = s₀.params → view .host s = v →
      ∃ u, hostLine l s = .next (goHost l' u) ∧ view .host u = v' ∧ Reports [] false s u) :
    Reaches s₀ calls false (.line (.host l')) v' := by
  obtain ⟨n, s, hrun, hrep, hp, hv⟩ := h
  obtain ⟨u, hu, hv', hrep'⟩ := hline s hrun.params hv
  have hpc : s.hostPc = .line l := hp
  have hstep : Runs False .host 1 s (goHost l' u) :=
    .line (by simp [running, hpc]) (by simpa only [lineStep, hostStep, hpc] using hu) nofun
  exact ⟨n + 1, _, hrun.trans hstep, (hrep.quiet hrep').silent rfl, rfl, hv'⟩

/-- A Host line that only chooses the next one. -/
theorem Reaches.hostGoes (h : Reaches s₀ calls last (.line (.host l)) v)
    (hline : ∀ s, view .host s = v → Machine.hostLine l s = .next (goHost l' s)) :
    Reaches s₀ calls false (.line (.host l')) v :=
  h.hostLine fun s _ hv => ⟨s, hline s hv, hv, [], by simp⟩

/-- A Host line that writes a register. -/
theorem Reaches.hostWrites {r : Reg} {off w : Word} (h : Reaches s₀ calls last (.line (.host l)) v)
    (hline : ∀ s, Machine.hostLine l s = .next (goHost l' (log (.wrReg off w) { s with dev := writeReg r w s.dev }))) :
    Reaches s₀ calls false (.line (.host l')) { v with dev := writeReg r w v.dev } :=
  h.hostLine fun s _ hv => ⟨_, hline s, by subst hv; rfl, [.wrReg off w], rfl, rfl, nofun⟩

/-- A Host line that clears the busy flag. -/
theorem Reaches.hostClearsBusy (h : Reaches s₀ calls last (.line (.host l)) v)
    (hline : ∀ s, Machine.hostLine l s = .next (goHost l' (setBusy false s))) :
    Reaches s₀ calls false (.line (.host l')) { v with engine := { v.engine with isBusy := false } } :=
  h.hostLine fun s _ hv => ⟨_, hline s, by subst hv; rfl, [], by simp⟩

/-- `StartIfManual` from its call, whatever bits the control register holds: what is stored of it stays (R88, R185). -/
theorem Reaches.startIfManual_any (h : Reaches s₀ calls last (.line c) v) (hc : c.calls = some .startIfManual) :
    ∃ cr, crStored cr = crStored v.dev.cr ∧ Reaches s₀ calls false (.line c.next) { v with
      dev := { v.dev with
        cr := cr
        startArmed := v.dev.startArmed || (crManstrtEn v.dev.cr && crMstren v.dev.cr && v.dev.en) }
      loc := { v.loc with cr := crStored v.dev.cr } } := by
  have h2 := h.startM1 hc
  by_cases hstop : crManstrtEn v.dev.cr = false ∨ crMstren v.dev.cr = false
  · refine ⟨v.dev.cr, rfl, (h2.startM2_stop (by simpa using hstop)).cast ?_⟩
    rcases hstop with hstop | hstop <;> simp [hstop]
  · refine ⟨crStored v.dev.cr, by simp, (h2.startM2 (by simpa using hstop)).startM3.cast ?_⟩
    simp [writeReg]

/-- What the Host reached at a line of its own list, it reaches by that many lines. -/
theorem Reaches.hostLines (h : Reaches s₀ calls last (.line (.host l)) v) :
    ∃ n t, runLines .host n s₀ = .next t ∧ t.hostPc = .line l ∧ view .host t = v :=
  let ⟨n, t, hrun, _, hp, hv⟩ := h.lines
  ⟨n, t, hrun, hp, hv⟩

/-- A line that returns. -/
theorem Reaches.hostReturns {k : Command} {status : Option Word} (h : Reaches s₀ calls last (.line (.host l)) v)
    (hline : ∀ s, Machine.hostLine l s = .next (hostReturn k status s)) :
    ∃ n t, runLines .host n s₀ = .next t ∧ t.hostPc = .idle ∧ t.engine = v.engine ∧ t.dev = v.dev ∧ t.mem = v.mem ∧
      t.trace.getLast? = some (.ret k status) := by
  obtain ⟨n, u, hrun, hp, hv⟩ := h.hostLines
  obtain ⟨hengine, hdev, hmem, -⟩ := View.mk.inj hv
  have hreturn : lineStep .host u = .next (hostReturn k status u) := by simp only [lineStep, hostStep, hp, hline]
  refine ⟨n + 1, hostReturn k status u, ?_, rfl, hengine, hdev, hmem, by simp⟩
  rw [runLines_add hrun, runLines_line (by simp [running, hp]) hreturn]
  rfl

end

/-! ### An uninterrupted `TRANSFER` -/

theorem runLines_frame {a : Agent} {n : Nat} {s t : State} (h : runLines a n s = .next t) : LineFrame a s t :=
  runLines_keeps (P := LineFrame a s) (fun _ _ hs _ hl => hs.trans (lineStep_frame hl))
    ⟨rfl, rfl, rfl, List.prefix_rfl, by cases a <;> exact ⟨rfl, rfl, rfl⟩⟩ h

/-- A clear buffer does not wrap (R189). -/
theorem BufferClear.bufWraps {e : Engine} {a n : Nat} (h : BufferClear e a n) : bufWraps a n = false := by
  simpa [Machine.bufWraps] using h.1

/-- A clear buffer's first bytes are clear, and so are the rest. -/
theorem BufferClear.take {e : Engine} {a n k : Nat} (h : BufferClear e a n) (hk : k ≤ n) : BufferClear e a k :=
  ⟨by have := h.1; omega, fun i hi => h.2 i (by omega)⟩

theorem BufferClear.drop {e : Engine} {a n k : Nat} (h : BufferClear e a n) (hk : k ≤ n) :
    BufferClear e (a + k) (n - k) := by
  refine ⟨by have := h.1; omega, fun i hi => ?_⟩
  rw [Nat.add_assoc]
  exact h.2 (k + i) (by omega)

/-- Clearing every sticky flag (R90). -/
theorem writeReg_sr_w1cAll (d : Dev) :
    writeReg .sr Config.w1cAll d = { d with rxovr := false, modf := false, txuf := false } := by
  simp [writeReg, clearSticky, srRxovr, srModf, srTxuf, Config.w1cAll]

/-- `T13` to `T16`: one batch is queued, the sticky flags cleared, the sources unmasked and a start armed (R185, R220). -/
theorem reaches_queued {u : State} {send j : Nat} (hp : u.hostPc = .line (.transfer .t13))
    (hj : j = min (fifoDepth u.params) u.engine.remainingBytes.toNat) (hsend : u.engine.sendBuffer = some send)
    (hclear : BufferClear u.engine send j) (hroom : u.dev.txFifo.length + j ≤ fifoDepth u.params) :
    ∃ cr loc, crStored cr = crStored u.dev.cr ∧ Reaches u [] false (.line (.host (.transfer .t17))) {
      engine := { u.engine with
        sendBuffer := some (send + j)
        remainingBytes := u.engine.remainingBytes - BitVec.ofNat 32 j }
      dev := { u.dev with
        txFifo := u.dev.txFifo ++ bytesAt u.mem send j
        rxovr := false
        modf := false
        txuf := false
        imr := u.dev.imr ||| 0x47#7
        cr := cr
        startArmed := u.dev.startArmed || (crManstrtEn u.dev.cr && crMstren u.dev.cr && u.dev.en) }
      mem := u.mem
      loc := loc } := by
  obtain ⟨b, h14⟩ := (Reaches.atHostLine hp).fill rfl hj hsend hclear hroom
  have h15 := Reaches.hostWrites (l := .transfer .t14) (l' := .transfer .t15) (r := .sr) (w := Config.w1cAll)
    (off := Config.offSr) h14 fun _ => rfl
  have h16 := h15.hostWrites (l' := .transfer .t16) (r := .ier) (w := Config.irqXfer) (off := Config.offIer) fun _ => rfl
  obtain ⟨cr, hcr, h17⟩ := h16.startIfManual_any rfl
  refine ⟨cr, { u.hostLoc with k := BitVec.ofNat 32 j, b := b, cr := crStored u.dev.cr }, ?_, Reaches.cast h17 ?_⟩
  · rw [hcr, writeReg_sr_w1cAll]; rfl
  · rw [writeReg_sr_w1cAll]; rfl

/-- Settles O23: the lines of the start (O22), then the batch, then `T17` returns. -/
theorem transferLinesQueueOneBatch : Obligations.TransferLinesQueueOneBatch := by
  unfold Obligations.TransferLinesQueueOneBatch
  intro s rxv send recv count hready hbusy hcount hrecv hclear hroom
  obtain ⟨u, ⟨m, hlines⟩, -, hue, hud, hum, hup⟩ :=
    transferStarts_both (k := .interrupt) (send := send) hready hbusy hcount hclear.bufWraps hrecv
  have hlines' : runLines .host m (started (transferOps true rxv send recv count) (.transfer .t1) s) = .next u := hlines
  have hparams : u.params = s.params := (runLines_frame hlines').params
  obtain ⟨j, hj⟩ : ∃ j, min (fifoDepth s.params) count.toNat = j := ⟨_, rfl⟩
  rw [hj] at hroom ⊢
  have hle : j ≤ count.toNat := by omega
  obtain ⟨cr, loc, hcr, h17⟩ := reaches_queued (send := send.toNat) (j := j) hup
    (by rw [hparams, hue, ← hj]; rfl) (by rw [hue]; rfl)
    (by rw [hue]; exact hclear.take hle) (by rw [hparams, hud]; exact hroom)
  obtain ⟨n, t, hrun, htp, hte, htd, htm, htr⟩ := h17.hostReturns fun _ => rfl
  refine ⟨m + n, t, (runLines_add hlines').trans hrun, htp, htr, ?_⟩
  simp only [hte, htd, htm, hue, hud, hum, true_and]
  refine ⟨rfl, rfl, rfl, ?_, ?_, ?_⟩
  · simp only [claimedEngine, transferOps]
    bv_omega
  · rw [hcr, hud]
    simp only [crSelected]
    split <;> simp
  · simp only [crSelected, Bool.and_true]
    split <;> simp

end Sys2Proof.Machine
end

section
/-! SUPPORT. The polled loop (R200, R202, R207): the lines to the busy-wait, the exchanges of the batch, and the lines back to the
loop head. -/

namespace Sys2Proof.Machine

/-- The loop head of a polled transfer in progress: as many bytes to queue as to retire, the device enabled and both FIFOs
empty (R191, R202). -/
structure AtLoopHead (s : State) (send : Nat) : Prop where
  hostPc : s.hostPc = .line (.polled .p13)
  send : s.engine.sendBuffer = some send
  remaining : s.engine.remainingBytes = s.engine.requestedBytes
  enabled : s.dev.en = true
  stored : crStored s.dev.cr = s.dev.cr
  tx : s.dev.txFifo = []
  rx : s.dev.rxFifo = []

/-- `P13` to `P15` with bytes left: a batch is queued and a start armed where the mode asks for one (R185, R200). -/
theorem AtLoopHead.reaches_wait {s : State} {send j : Nat} (h : AtLoopHead s send) (hreq : s.engine.requestedBytes ≠ 0#32)
    (hj : j = min (fifoDepth s.params) s.engine.requestedBytes.toNat) (hclear : BufferClear s.engine send j) :
    ∃ b, Reaches s [] false (.line (.host (.polled .p16))) {
      engine := { s.engine with
        sendBuffer := some (send + j)
        remainingBytes := s.engine.remainingBytes - BitVec.ofNat 32 j }
      dev := { s.dev with
        txFifo := bytesAt s.mem send j
        startArmed := s.dev.startArmed || (crManstrtEn s.dev.cr && crMstren s.dev.cr) }
      mem := s.mem
      loc := { s.hostLoc with k := BitVec.ofNat 32 j, b := b, cr := s.dev.cr } } := by
  have h14 := (Reaches.atHostLine h.hostPc).hostGoes (l' := .polled .p14) fun u hu => by
    have hreq' : u.engine.requestedBytes ≠ 0#32 := by
      rwa [show u.engine.requestedBytes = s.engine.requestedBytes from congrArg (·.engine.requestedBytes) hu]
    exact if_neg fun hdone => hreq' hdone.2
  obtain ⟨b, h15⟩ := h14.fill rfl (by rw [hj, ← h.remaining]) h.send hclear
    (by rw [h.tx, List.length_nil, Nat.zero_add]; exact hj ▸ Nat.min_le_left _ _)
  have h16 := Reaches.startIfManual (c := .host (.polled .p15)) h15 rfl h.stored
  exact ⟨b, Reaches.cast h16 (by simp [h.tx, h.enabled])⟩

/-- `P16` to `P19` with the batch exchanged: the answers are stored, or discarded without a receive buffer (R183, R200). -/
theorem reaches_retired {s : State} {j : Nat} (hp : s.hostPc = .line (.polled .p16)) (htx : s.dev.txFifo = [])
    (hk : s.hostLoc.k.toNat = j) (hrx : s.dev.rxFifo.length = j) (hj : j ≤ s.engine.requestedBytes.toNat)
    (hclear : ∀ r, s.engine.recvBuffer = some r → BufferClear s.engine r j) :
    ∃ b, Reaches s [] false (.line (.host (.polled .p13))) {
      engine := { s.engine with
        recvBuffer := s.engine.recvBuffer.map (· + j)
        requestedBytes := s.engine.requestedBytes - s.hostLoc.k }
      dev := { s.dev with rxFifo := [] }
      mem := storeAt s.engine.recvBuffer s.mem s.dev.rxFifo
      loc := { s.hostLoc with sr := srValue s.params s.dev, k := 0#32, b := b } } := by
  have h17 : Reaches s [] false (.line (.host (.polled .p17)))
      ⟨s.engine, s.dev, s.mem, { s.hostLoc with sr := srValue s.params s.dev }⟩ :=
    (Reaches.atHostLine hp).hostLine fun u hparams hu => by
      obtain ⟨hue, hud, hum, hul⟩ := View.mk.inj hu
      rw [← hparams, ← hue, ← hud, ← hum, ← hul]
      exact ⟨_, readSrLocal_eq _ _ _, rfl, [.rdReg Config.offSr (srValue u.params u.dev)], rfl, rfl, nofun⟩
  have h18 := h17.hostGoes (l' := .polled .p18) fun u hu => by
    have hsr : u.hostLoc.sr = srValue s.params s.dev := congrArg (·.loc.sr) hu
    exact if_neg (by simp [hsr, htx])
  obtain ⟨b, drawn, hdrawn, h19⟩ := h18.drain rfl (by simpa [hk] using hj) (by simpa [hk] using hclear)
  have h13 := Reaches.hostGoes (l := .polled .p19) (l' := .polled .p13) h19 fun _ _ => rfl
  have hnil : drawn = [] := List.length_eq_zero_iff.1 (by simpa [hk, hrx] using hdrawn)
  exact ⟨b, h13.cast (by simp [hk, hnil, ← hrx])⟩

/-- The engine after a pass of the loop with a batch of `j` bytes. -/
def passedEngine (e : Engine) (send j : Nat) : Engine :=
  { e with
    sendBuffer := some (send + j)
    recvBuffer := e.recvBuffer.map (· + j)
    requestedBytes := e.requestedBytes - BitVec.ofNat 32 j
    remainingBytes := e.remainingBytes - BitVec.ofNat 32 j }

theorem length_bytesAt (m : List Host.Cell) (a n : Nat) : (bytesAt m a n).length = n := by simp [bytesAt]

/-- What a pass of the loop from `s` to `t` has done with the answers (R184, R202). -/
structure Passed (s t : State) (send : Nat) (answers : List Byte) : Prop where
  hostPc : t.hostPc = .line (.polled .p13)
  engine : t.engine = passedEngine s.engine send answers.length
  dev : ∃ armed, t.dev = { s.dev with startArmed := armed }
  mem : t.mem = storeAt s.engine.recvBuffer s.mem answers

/-- One pass of the loop: lines to the busy-wait, the exchanges of the batch, and lines back to the loop head. -/
theorem AtLoopHead.pass {s : State} {send : Nat} {answers : List Byte} (h : AtLoopHead s send)
    (hreq : s.engine.requestedBytes ≠ 0#32)
    (hlen : answers.length = min (fifoDepth s.params) s.engine.requestedBytes.toNat)
    (hsend : BufferClear s.engine send answers.length)
    (hrecv : ∀ r, s.engine.recvBuffer = some r → BufferClear s.engine r answers.length) :
    ∃ m n s1 s2 t, runLines .host m s = .next s1 ∧ s1.hostPc = .line (.polled .p16) ∧
      s1.dev.txFifo = bytesAt s.mem send answers.length ∧ exchanges answers s1 = some s2 ∧
      runLines .host n s2 = .next t ∧ Passed s t send answers := by
  obtain ⟨b, hwait⟩ := h.reaches_wait hreq hlen hsend
  obtain ⟨m, s1, hrun, hp, hv⟩ := hwait.hostLines
  obtain ⟨he, hd, hm, hl⟩ := View.mk.inj hv
  have hparams : s1.params = s.params := (runLines_frame hrun).params
  have hdepth : answers.length ≤ fifoDepth s1.params := by rw [hparams, hlen]; exact Nat.min_le_left _ _
  have hle : answers.length ≤ s.engine.requestedBytes.toNat := by rw [hlen]; exact Nat.min_le_right _ _
  have htx : answers.length = s1.dev.txFifo.length := by rw [hd, length_bytesAt]
  have hrx : s1.dev.rxFifo = [] := by rw [hd]; exact h.rx
  have hroom : s1.dev.rxFifo.length + answers.length ≤ fifoDepth s1.params := by simpa [hrx] using hdepth
  have hcan : CanExchange s1 := by
    rw [CanExchange, hd]
    exact ⟨h.enabled, fun hs hm => by simp at hs hm; simp [hs, hm]⟩
  obtain ⟨s2, hexch⟩ := hcan.exists_exchanges htx hroom
  obtain ⟨armed, trace, rfl⟩ := exchanges_eq hexch htx hroom
  have hk : s1.hostLoc.k = BitVec.ofNat 32 answers.length := congrArg Locals.k hl
  have hkn : s1.hostLoc.k.toNat = answers.length := by
    have := s.engine.requestedBytes.isLt
    rw [hk, BitVec.toNat_ofNat, Nat.mod_eq_of_lt (by omega)]
  obtain ⟨b', hback⟩ := reaches_retired (s := exchanged s1 [] (s1.dev.rxFifo ++ answers) armed trace) hp rfl hkn
    (by simp [exchanged, hrx]) (by simpa [exchanged, he] using hle) (by simp only [exchanged, he]; exact hrecv)
  obtain ⟨n, t, hrun', hp', hv'⟩ := hback.hostLines
  obtain ⟨he', hd', hm', -⟩ := View.mk.inj hv'
  refine ⟨m, n, s1, _, t, hrun, hp, by rw [hd], hexch, hrun', hp', ?_, ⟨armed, ?_⟩, ?_⟩
  · rw [he']
    simp [exchanged, he, hk, passedEngine]
  · rw [hd']
    simp [exchanged, hd, h.tx, h.rx]
  · rw [hm']
    simp [exchanged, he, hm, hrx]

/-- Settles O46: one pass of the loop. -/
theorem polledPassMovesOneBatch : Obligations.PolledPassMovesOneBatch := by
  unfold Obligations.PolledPassMovesOneBatch
  intro s send answers hp hsend hreq hrem hen hcr htx hrx hlen hclear hclearRecv
  have hhead : AtLoopHead s send := ⟨hp, hsend, hrem, hen, hcr, htx, hrx⟩
  obtain ⟨m, n, s1, s2, t, hrun, hp1, htx1, hexch, hrun', hpass⟩ := hhead.pass hreq hlen hclear hclearRecv
  obtain ⟨armed, hdev⟩ := hpass.dev
  refine ⟨m, n, s1, s2, t, hrun, hp1, htx1, hexch, hrun', hpass.hostPc, ?_, hpass.engine, ?_, ?_, ?_, ?_⟩
  · rw [hpass.mem, storeAt]
    cases s.engine.recvBuffer <;> rfl
  all_goals rw [hdev]
  exacts [htx, hrx, hen]

end Sys2Proof.Machine
end

section
/-! SUPPORT. No line of the Host and no exchange depends on the moves still to be drawn, so a run of lines and a run of exchanges
are steps of the machine with the moves that draw them in its schedule (R33, notes/assumptions/2.md). -/

namespace Sys2Proof.Machine

/-! ### Another schedule -/

/-- The state with other moves still to be drawn. -/
def withSchedule (moves : List Move) (s : State) : State := { s with schedule := moves }

theorem goSub_withSchedule (a : Agent) (q : SubLine) (moves : List Move) (s : State) :
    goSub a q (withSchedule moves s) = withSchedule moves (goSub a q s) := by
  unfold goSub withSchedule
  cases a with
  | host => dsimp only; split <;> rfl
  | handler => dsimp only; split <;> rfl

theorem returnToCaller_withSchedule (a : Agent) (moves : List Move) (s : State) :
    returnToCaller a (withSchedule moves s) = withSchedule moves (returnToCaller a s) := by
  unfold returnToCaller withSchedule
  cases a with
  | host => dsimp only; split <;> rfl
  | handler => dsimp only; split <;> rfl

/-- A line that tests a condition goes on elsewhere as it does here, where each branch does. -/
theorem next_of_ite {c : Prop} [Decidable c] {x y x' y' : Result} {t t' : State} (hx : x = .next t → x' = .next t')
    (hy : y = .next t → y' = .next t') (h : (if c then x else y) = .next t) : (if c then x' else y') = .next t' := by
  split at h
  · next hc => rw [if_pos hc]; exact hx h
  · next hc => rw [if_neg hc]; exact hy h

/-- A line of a sub-sequence the Host runs. -/
theorem subLine_withSchedule {q : SubLine} {s t : State} (moves : List Move) (h : subLine .host q s = .next t) :
    subLine .host q (withSchedule moves s) = .next (withSchedule moves t) := by
  have hgo : ∀ {q' : SubLine} {u : State}, .next (goSub .host q' u) = (.next t : Result) →
      .next (goSub .host q' (withSchedule moves u)) = (.next (withSchedule moves t) : Result) := by
    rintro q' u h
    cases h
    rw [goSub_withSchedule]
  have hback : ∀ {u : State}, .next (returnToCaller .host u) = (.next t : Result) →
      .next (returnToCaller .host (withSchedule moves u)) = (.next (withSchedule moves t) : Result) := by
    rintro u h
    cases h
    rw [returnToCaller_withSchedule]
  cases q
  case f1 | f5 | f7 | d5 | d7 | m1 | c1 | a2 | a3 | a6 | a7 | a8 => exact hgo h
  case m3 | c3 | a9 => exact hback h
  case f2 | d1 | m2 | c2 => exact next_of_ite hback hgo h
  case a4 => exact next_of_ite hgo hgo h
  case f6 | d6 => exact next_of_ite (by nofun) hgo h
  case f4 => exact next_of_ite (by nofun) hgo h
  case f3 =>
    simp only [subLine, fillF3, withSchedule] at h ⊢
    split at h
    · cases h
    · exact next_of_ite (by nofun) (next_of_ite (by nofun) hgo) h
  case d2 | a5 =>
    rcases hrx : s.dev.rxFifo with _ | ⟨b, rest⟩
    · simp only [subLine, drainD2, abortA5, regRead_rxd_nil hrx] at h
      simp only [subLine, drainD2, abortA5, regRead_rxd_nil (s := withSchedule moves s) hrx]
      exact hgo h
    · simp only [subLine, drainD2, abortA5, regRead_rxd_cons hrx] at h
      simp only [subLine, drainD2, abortA5, regRead_rxd_cons (s := withSchedule moves s) hrx]
      exact hgo h
  case d3 =>
    simp only [subLine, drainD3, withSchedule] at h ⊢
    split at h
    · exact hgo h
    · exact hgo h
  case d4 =>
    simp only [subLine, drainD4, withSchedule] at h ⊢
    split at h
    · exact hgo h
    · exact next_of_ite (by nofun) (next_of_ite (by nofun) hgo) h

/-- A line of a Host command. -/
theorem hostLine_withSchedule {l : HostLine} {s t : State} (moves : List Move) (h : hostLine l s = .next t) :
    hostLine l (withSchedule moves s) = .next (withSchedule moves t) := by
  have hgo : ∀ {l' : HostLine} {u : State}, .next (goHost l' u) = (.next t : Result) →
      .next (goHost l' (withSchedule moves u)) = (.next (withSchedule moves t) : Result) := by
    rintro l' u h
    cases h
    rfl
  have hret : ∀ {k : Command} {v : Option Word} {u : State}, .next (hostReturn k v u) = (.next t : Result) →
      .next (hostReturn k v (withSchedule moves u)) = (.next (withSchedule moves t) : Result) := by
    rintro k v u h
    cases h
    rfl
  have hcall : ∀ {q : SubLine}, callSub .host q s = .next t →
      callSub .host q (withSchedule moves s) = .next (withSchedule moves t) := by
    intro q h
    rw [callSub, goSub_withSchedule]
    exact subLine_withSchedule moves h
  cases l with
  | init l =>
    cases l
    case i1 => exact next_of_ite (by nofun) hgo h
    case i2 => exact next_of_ite hret hgo h
    case i8 => exact hcall (q := .a2) h
    case i10 => exact hret h
    all_goals exact hgo h
  | setStatusHandler l =>
    cases l
    case k1 => exact next_of_ite hgo (by nofun) h
    case k2 => exact next_of_ite (by nofun) hgo h
    case k5 => exact hret h
    all_goals exact hgo h
  | setSs l =>
    cases l
    case s1 | s2 => exact next_of_ite hgo (by nofun) h
    case s3 => exact next_of_ite hret hgo h
    case s7 => exact hret h
    all_goals exact hgo h
  | getSs l =>
    cases l
    case g1 => exact next_of_ite hgo (by nofun) h
    case g2 => exact hret h
  | polled l =>
    cases l
    case p1 => exact next_of_ite hgo (by nofun) h
    case p2 | p3 | p4 => exact next_of_ite (by nofun) hgo h
    case p5 => exact next_of_ite hret hgo h
    case p10 | p13 | p17 => exact next_of_ite hgo hgo h
    case p14 => exact hcall (q := .f1) h
    case p15 => exact hcall (q := .m1) h
    case p18 => exact hcall (q := .d1) h
    case p20 => exact hcall (q := .c1) h
    case p23 => exact hret h
    all_goals exact hgo h
  | transfer l =>
    cases l
    case t1 => exact next_of_ite hgo (by nofun) h
    case t2 | t3 | t4 => exact next_of_ite (by nofun) hgo h
    case t5 => exact next_of_ite hret hgo h
    case t8 =>
      have htotal : installTransferCounters (withSchedule moves s) = withSchedule moves (installTransferCounters s) := by
        simp only [installTransferCounters, withSchedule]
        split <;> rfl
      rw [hostLine, transferLine, htotal]
      exact hgo h
    case t10 => exact next_of_ite hgo hgo h
    case t13 => exact hcall (q := .f1) h
    case t16 => exact hcall (q := .m1) h
    case t17 => exact hret h
    all_goals exact hgo h
  | abort l =>
    cases l
    case a1 => exact next_of_ite hgo (by nofun) h
    case a2 => exact hcall (q := .a2) h
    case a10 => exact hret h
  | reset l =>
    cases l
    case x1 => exact next_of_ite hgo (by nofun) h
    case x2 => exact hcall (q := .a2) h
    case x4 => exact hret h
    all_goals exact hgo h
  | configure l =>
    cases l
    case n1 => exact next_of_ite hgo (by nofun) h
    case n2 => exact next_of_ite hret hgo h
    case n5 => exact hret h
    all_goals exact hgo h

/-- A line of the Host. -/
theorem hostStep_withSchedule {s t : State} (moves : List Move) (h : hostStep s = .next t) :
    hostStep (withSchedule moves s) = .next (withSchedule moves t) := by
  have hpc : (withSchedule moves s).hostPc = s.hostPc := rfl
  rw [hostStep] at h ⊢
  rw [hpc]
  cases hp : s.hostPc with
  | idle =>
    rw [hp] at h
    cases h
    rfl
  | line l =>
    rw [hp] at h
    exact hostLine_withSchedule moves h
  | sub c q =>
    rw [hp] at h
    exact subLine_withSchedule moves h

/-- The lines of the Host that no other agent can come between. -/
theorem runAhead_withSchedule {n : Nat} {s t : State} (moves : List Move) (h : runAhead .host n s = .next t) :
    runAhead .host n (withSchedule moves s) = .next (withSchedule moves t) := by
  induction n generalizing s with
  | zero => cases h; rfl
  | succ n ih =>
    by_cases hgo : (running .host s && !otherEnabled s) = true
    · obtain ⟨hr, ho⟩ := Bool.and_eq_true_iff.1 hgo
      rw [Bool.not_eq_true'] at ho
      rcases hl : lineStep .host s with u | f | r
      · rw [runAhead_line hr ho hl] at h
        rw [runAhead_line (a := .host) (s := withSchedule moves s) hr ho (hostStep_withSchedule moves hl)]
        exact ih h
      · simp [runAhead, hr, ho, hl] at h
      · simp [runAhead, hr, ho, hl] at h
    · have hstop : running .host s = false ∨ otherEnabled s = true := by simpa [imp_iff_not_or] using hgo
      rw [runAhead_stop hstop] at h
      rw [runAhead_stop (s := withSchedule moves s) hstop]
      cases h
      rfl

theorem issue_withSchedule {o : HostOps} {l : HostLine} {s t : State} (moves : List Move) (h : issue o l s = .next t) :
    issue o l (withSchedule moves s) = .next (withSchedule moves t) := by
  obtain ⟨hf, u, hu, hrun⟩ := issue_next h
  rw [issue_free (o := o) (l := l) (s := withSchedule moves s) hf (hostStep_withSchedule moves hu)]
  exact runAhead_withSchedule moves hrun

/-- The meaning of a Host command. -/
theorem exec_withSchedule {i : Instr} {s t : State} (moves : List Move) (hi : i ≠ .irq) (h : exec i s = .next t) :
    exec i (withSchedule moves s) = .next (withSchedule moves t) := by
  cases i with
  | irq => exact absurd rfl hi
  | polledTransfer => exact next_of_ite (by nofun) (issue_withSchedule moves) h
  | transfer => exact next_of_ite (by nofun) (issue_withSchedule moves) h
  | _ => exact issue_withSchedule moves h

/-! ### Runs as steps of the machine -/

/-- With moves in its schedule the machine steps from `s` to `t`, whatever moves follow them; no step changes the parameters,
takes a command or enters the Handler. -/
structure Follows (s t : State) : Prop where
  params : t.params = s.params
  stream : t.stream = s.stream
  handlerActive : t.handlerActive = s.handlerActive
  steps : ∃ n moves, ∀ rest, steps n (withSchedule (moves ++ rest) s) = .next (withSchedule rest t)

theorem steps_add {m n : Nat} {s t : State} (h : steps m s = .next t) : steps (m + n) s = steps n t := by
  induction m generalizing s with
  | zero => cases h; rw [Nat.zero_add]
  | succ m ih =>
    rw [Nat.add_right_comm]
    simp only [Machine.steps] at h ⊢
    rcases hs : step s with u | f | r
    · rw [hs] at h
      exact ih h
    · rw [hs] at h; cases h
    · rw [hs] at h; cases h

theorem steps_one {s t : State} (h : step s = .next t) : steps 1 s = .next t := by simp [steps, h]

theorem Follows.refl (s : State) : Follows s s := ⟨rfl, rfl, rfl, 0, [], fun _ => rfl⟩

theorem Follows.trans {s t u : State} (h₁ : Follows s t) (h₂ : Follows t u) : Follows s u where
  params := h₂.params.trans h₁.params
  stream := h₂.stream.trans h₁.stream
  handlerActive := h₂.handlerActive.trans h₁.handlerActive
  steps := by
    obtain ⟨m, moves, hm⟩ := h₁.steps
    obtain ⟨n, moves', hn⟩ := h₂.steps
    refine ⟨m + n, moves ++ moves', fun rest => ?_⟩
    rw [List.append_assoc, steps_add (hm _), hn]

/-- One step, by the move that draws it or by none. -/
theorem Follows.one {s t : State} {moves : List Move} (hp : t.params = s.params) (hs : t.stream = s.stream)
    (ha : t.handlerActive = s.handlerActive)
    (h : ∀ rest, step (withSchedule (moves ++ rest) s) = .next (withSchedule rest t)) : Follows s t :=
  ⟨hp, hs, ha, 1, moves, fun rest => steps_one (h rest)⟩

/-- A line of the running Host with no Handler active is a step: the sequencer's, drawn where another agent could step. -/
theorem Follows.line {s t : State} (ha : s.handlerActive = false) (hr : running .host s = true)
    (h : lineStep .host s = .next t) : Follows s t := by
  have hf := lineStep_frame h
  obtain ⟨hactive, -, -⟩ := hf.other
  have hp : s.hostPc ≠ .idle := by simpa [running] using hr
  have hseq : ∀ rest, sequencerStep (withSchedule rest s) = .next (withSchedule rest t) := fun rest =>
    (sequencerStep_host (s := withSchedule rest s) ha hp).trans (hostStep_withSchedule rest h)
  rcases ho : otherEnabled s with _ | _
  · exact .one (moves := []) hf.params hf.stream hactive fun rest =>
      (step_undisturbed (s := withSchedule rest s) ho).trans (hseq rest)
  · exact .one (moves := [.sequencer]) hf.params hf.stream hactive fun rest =>
      (step_drawn (s := withSchedule (.sequencer :: rest) s) ho rfl).trans (hseq rest)

/-- A run of the Host's lines with no Handler active. -/
theorem Follows.lines {n : Nat} {s t : State} (ha : s.handlerActive = false) (h : runLines .host n s = .next t) :
    Follows s t := by
  induction n generalizing s with
  | zero => cases h; exact .refl _
  | succ n ih =>
    rcases hr : running .host s with _ | _
    · obtain rfl : s = t := by simpa [runLines, hr] using h
      exact .refl _
    · rcases hl : lineStep .host s with u | f | r
      · rw [runLines_line hr hl] at h
        have hstep := Follows.line ha hr hl
        exact hstep.trans (ih (hstep.handlerActive.trans ha) h)
      · simp [runLines, hr, hl] at h
      · simp [runLines, hr, hl] at h

/-- The move that draws the exchange the mode enables. -/
def exchangeMove (b : Byte) (s : State) : Move := if masterEnabled s then .masterExchange b else .slaveExchange b b

theorem exchangeOne_withSchedule (b : Byte) (moves : List Move) (s : State) :
    exchangeOne b (withSchedule moves s) = withSchedule moves (exchangeOne b s) := by
  have hm : masterExchange b (withSchedule moves s) = withSchedule moves (masterExchange b s) := by
    simp only [masterExchange, withSchedule]
    split <;> rfl
  have hs : slaveExchange b b (withSchedule moves s) = withSchedule moves (slaveExchange b b s) := by
    simp only [slaveExchange, withSchedule]
    split <;> rfl
  have hen : masterEnabled (withSchedule moves s) = masterEnabled s := rfl
  simp only [exchangeOne, hen, hm, hs]
  split <;> rfl

theorem takeMove_exchangeMove (b : Byte) {s : State} (h : masterEnabled s = true ∨ slaveEnabled s = true) :
    takeMove (exchangeMove b s) s = .next (exchangeOne b s) := by
  rcases hm : masterEnabled s with _ | _
  · simp [exchangeMove, exchangeOne, takeMove, hm, h.resolve_left (by simp [hm])]
  · simp [exchangeMove, exchangeOne, takeMove, hm]

/-- An enabled exchange is a step, where it is drawn. -/
theorem Follows.exchange {b : Byte} {s : State} (h : masterEnabled s = true ∨ slaveEnabled s = true) :
    Follows s (exchangeOne b s) := by
  have ho : otherEnabled s = true := (otherEnabled_iff s).2 (h.imp_right .inl)
  have hstep : ∀ rest, step (withSchedule (exchangeMove b s :: rest) s) = .next (withSchedule rest (exchangeOne b s)) := by
    intro rest
    rw [step_drawn (s := withSchedule (exchangeMove b s :: rest) s) ho rfl, ← exchangeOne_withSchedule]
    exact takeMove_exchangeMove b (s := withSchedule rest s) h
  refine .one (moves := [exchangeMove b s]) ?_ ?_ ?_ hstep
  all_goals
    rw [exchangeOne]
    split <;> simp

/-- A run of exchanges. -/
theorem Follows.exchanges {answers : List Byte} {s t : State} (h : exchanges answers s = some t) : Follows s t := by
  induction answers generalizing s with
  | nil =>
    obtain rfl : s = t := by simpa [Machine.exchanges] using h
    exact .refl s
  | cons b bs ih =>
    obtain ⟨hen, -, hrest⟩ := exchanges_cons h
    exact (Follows.exchange hen).trans (ih hrest)

end Sys2Proof.Machine
end

section
/-! SUPPORT. A polled transfer from its command in the stream to its return (R192, R200 to R209): the start, as many passes as the
count asks for, each with its exchanges, and the end, in an order of the agents' steps. -/

namespace Sys2Proof.Machine

/-! ### The loop -/

theorem storeBytes_append (m : List Host.Cell) (a : Nat) (bs cs : List Byte) :
    storeBytes m a (bs ++ cs) = storeBytes (storeBytes m a bs) (a + bs.length) cs := by
  induction bs generalizing m a with
  | nil => rfl
  | cons b bs ih =>
    rw [List.cons_append, storeBytes, ih, storeBytes, List.length_cons, Nat.add_assoc, Nat.add_comm 1]

theorem storeAt_append (recv : Option Nat) (m : List Host.Cell) (bs cs : List Byte) :
    storeAt recv m (bs ++ cs) = storeAt (recv.map (· + bs.length)) (storeAt recv m bs) cs := by
  cases recv with
  | none => rfl
  | some r => exact storeBytes_append m r bs cs

/-- A pass of the loop is an order of steps, from loop head to loop head. -/
theorem AtLoopHead.follows_pass {s : State} {send : Nat} {answers : List Byte} (h : AtLoopHead s send)
    (ha : s.handlerActive = false) (hreq : s.engine.requestedBytes ≠ 0#32)
    (hlen : answers.length = min (fifoDepth s.params) s.engine.requestedBytes.toNat)
    (hsend : BufferClear s.engine send answers.length)
    (hrecv : ∀ r, s.engine.recvBuffer = some r → BufferClear s.engine r answers.length) :
    ∃ t, Follows s t ∧ Passed s t send answers ∧ AtLoopHead t (send + answers.length) := by
  obtain ⟨m, n, s1, s2, t, hrun, -, -, hexch, hrun', hpass⟩ := h.pass hreq hlen hsend hrecv
  have h1 := Follows.lines ha hrun
  have h2 := h1.trans (Follows.exchanges hexch)
  have h3 := h2.trans (Follows.lines (h2.handlerActive.trans ha) hrun')
  obtain ⟨armed, hdev⟩ := hpass.dev
  have hrem := h.remaining
  refine ⟨t, h3, hpass, hpass.hostPc, ?_, ?_, ?_, ?_, ?_, ?_⟩
  · rw [hpass.engine, passedEngine]
  · rw [hpass.engine, passedEngine, hrem]
  all_goals rw [hdev]
  exacts [h.enabled, h.stored, h.tx, h.rx]

/-- What the loop from `s` leaves at its head in `t`, once every byte is retired. -/
structure LoopDone (s t : State) (answers : List Byte) : Prop where
  hostPc : t.hostPc = .line (.polled .p13)
  remaining : t.engine.remainingBytes = 0#32
  requested : t.engine.requestedBytes = 0#32
  dev : ∃ armed, t.dev = { s.dev with startArmed := armed }
  mem : t.mem = storeAt s.engine.recvBuffer s.mem answers

/-- The loop, by induction on the bytes to retire: a batch is passed, then the rest. -/
theorem AtLoopHead.follows_loop {s : State} {send : Nat} {answers : List Byte} (h : AtLoopHead s send)
    (ha : s.handlerActive = false) (hlen : answers.length = s.engine.requestedBytes.toNat)
    (hsend : BufferClear s.engine send answers.length)
    (hrecv : ∀ r, s.engine.recvBuffer = some r → BufferClear s.engine r answers.length) :
    ∃ t, Follows s t ∧ LoopDone s t answers := by
  induction hn : answers.length using Nat.strong_induction_on generalizing s send answers with
  | _ n ih =>
    subst hn
    by_cases hreq : s.engine.requestedBytes = 0#32
    · have hnil : answers = [] := List.length_eq_zero_iff.1 (by simpa [hreq] using hlen)
      exact ⟨s, .refl s, h.hostPc, h.remaining.trans hreq, hreq, ⟨_, rfl⟩, by rw [hnil, storeAt_nil]⟩
    · obtain ⟨j, hj⟩ : ∃ j, min (fifoDepth s.params) s.engine.requestedBytes.toNat = j := ⟨_, rfl⟩
      have hne : s.engine.requestedBytes.toNat ≠ 0 := fun h0 => hreq (BitVec.eq_of_toNat_eq h0)
      have hpos : 0 < j := by have : 0 < fifoDepth s.params := Nat.succ_pos _; omega
      have hle : j ≤ answers.length := by omega
      have htake : (answers.take j).length = j := List.length_take_of_le hle
      have hdrop : (answers.drop j).length = answers.length - j := List.length_drop
      obtain ⟨u, hpass, hu, hhead⟩ := h.follows_pass (answers := answers.take j) ha hreq (by rw [htake, hj])
        (by rw [htake]; exact hsend.take hle) (fun r hr => by rw [htake]; exact (hrecv r hr).take hle)
      have hue := hu.engine
      rw [htake] at hhead hue
      have hrest : u.engine.requestedBytes.toNat = answers.length - j := by
        rw [hue, passedEngine, hlen]
        bv_omega
      obtain ⟨t, hloop, hdone⟩ := ih _ (by rw [hdrop]; omega) (s := u) (send := send + j) (answers := answers.drop j) hhead
        (hpass.handlerActive.trans ha) (by rw [hdrop, hrest])
        (by rw [hdrop, hue]; exact hsend.drop hle)
        (fun r hr => by
          rw [hue] at hr
          obtain ⟨r', hr', rfl⟩ := Option.map_eq_some_iff.1 hr
          rw [hdrop, hue]
          exact (hrecv r' hr').drop hle) rfl
      obtain ⟨armed, hud⟩ := hu.dev
      obtain ⟨armed', htd⟩ := hdone.dev
      refine ⟨t, hpass.trans hloop, hdone.hostPc, hdone.remaining, hdone.requested, ⟨armed', by rw [htd, hud]⟩, ?_⟩
      rw [hdone.mem, hu.mem, hue, passedEngine, ← List.take_append_drop j answers, storeAt_append, htake]
      simp

/-! ### The end -/

/-- `P13` with nothing left, then `P20` to `P22`: chip-select deasserted, busy cleared, the device disabled (R203, R209). -/
theorem reaches_polledEnd {s : State} (hp : s.hostPc = .line (.polled .p13)) (hrem : s.engine.remainingBytes = 0#32)
    (hreq : s.engine.requestedBytes = 0#32) (hcr : crStored s.dev.cr = s.dev.cr) :
    Reaches s [] false (.line (.host (.polled .p23))) {
      engine := { s.engine with isBusy := false }
      dev := { s.dev with cr := crAfterDeassert s.dev.cr, en := false, startArmed := false }
      mem := s.mem
      loc := { s.hostLoc with cr := s.dev.cr } } := by
  have h20 := (Reaches.atHostLine hp).hostGoes (l' := .polled .p20) fun u hu => by
    obtain ⟨hue, -, -, -⟩ := View.mk.inj hu
    exact if_pos (by rw [hue]; exact ⟨hrem, hreq⟩)
  have h21 := h20.deassertIfManual rfl hcr
  have h22 := Reaches.hostClearsBusy (l := .polled .p21) (l' := .polled .p22) h21 fun _ => rfl
  exact (h22.hostWrites (l' := .polled .p23) (r := .er) (w := 0#32) (off := Config.offEr) fun _ => rfl).cast
    (by simp [writeReg])

/-- What a polled transfer at its loop head in `s` leaves when it has returned in `t`. -/
structure PolledDone (s t : State) (answers : List Byte) : Prop where
  hostPc : t.hostPc = .idle
  returned : t.trace.getLast? = some (.ret .polledTransfer (some Config.success))
  busy : t.engine.isBusy = false
  remaining : t.engine.remainingBytes = 0#32
  requested : t.engine.requestedBytes = 0#32
  dev : t.dev = { s.dev with cr := crAfterDeassert s.dev.cr, en := false, startArmed := false }
  mem : t.mem = storeAt s.engine.recvBuffer s.mem answers

/-- From its loop head a polled transfer can come to its return, whatever the other side sends for each byte. -/
theorem AtLoopHead.follows_end {s : State} {send : Nat} {answers : List Byte} (h : AtLoopHead s send)
    (ha : s.handlerActive = false) (hlen : answers.length = s.engine.requestedBytes.toNat)
    (hsend : BufferClear s.engine send answers.length)
    (hrecv : ∀ r, s.engine.recvBuffer = some r → BufferClear s.engine r answers.length) :
    ∃ t, Follows s t ∧ PolledDone s t answers := by
  obtain ⟨u, hloop, hdone⟩ := h.follows_loop ha hlen hsend hrecv
  obtain ⟨armed, hdev⟩ := hdone.dev
  have hcr : crStored u.dev.cr = u.dev.cr := by rw [hdev]; exact h.stored
  obtain ⟨n, t, hend, htp, hte, htd, htm, htr⟩ :=
    (reaches_polledEnd hdone.hostPc hdone.remaining hdone.requested hcr).hostReturns fun _ => rfl
  refine ⟨t, hloop.trans (.lines (hloop.handlerActive.trans ha) hend), htp, htr, by rw [hte], ?_, ?_, ?_, ?_⟩
  · rw [hte]; exact hdone.remaining
  · rw [hte]; exact hdone.requested
  · rw [htd, hdev]
  · rw [htm, hdone.mem]

/-! ### The start -/

/-- What a Host command's meaning leaves of the machine, wherever it stops. -/
theorem exec_frame {i : Instr} {s t : State} (hi : i ≠ .irq) (h : exec i s = .next t) :
    t.params = s.params ∧ t.stream = s.stream ∧ t.handlerActive = s.handlerActive := by
  obtain ⟨hirq, -⟩ | ⟨l, -, h⟩ := exec_next h
  · exact absurd hirq hi
  · obtain ⟨-, u, hu, hrun⟩ := issue_next h
    have hf : LineFrame .host (started (operands i) l s) t :=
      runAhead_keeps (fun _ _ hs _ hl => hs.trans (lineStep_frame hl)) (lineStep_frame (a := .host) hu) hrun
    exact ⟨hf.params, hf.stream, hf.other.1⟩

/-- A range that meets the register block has a byte in it (R101, R331). -/
theorem BufferClear.not_meetsBlock {e : Engine} {a n : Nat} (hready : e.isReady = true) (h : BufferClear e a n) :
    meetsBlock e.baseAddress a n = false := by
  rw [Bool.eq_false_iff]
  intro hmeets
  simp only [meetsBlock, Bool.and_eq_true, decide_eq_true_eq] at hmeets
  obtain ⟨⟨hn, htop⟩, hbottom⟩ := hmeets
  have hsize : 0 < Config.regBlockSize := by decide
  have hin : meetsBlock e.baseAddress (a + (e.baseAddress.toNat - a)) 1 = true := by
    simp only [meetsBlock, Bool.and_eq_true, decide_eq_true_eq]
    omega
  have hout : inBlock e (a + (e.baseAddress.toNat - a)) = false := h.2 _ (by omega)
  rw [inBlock, hready, hin] at hout
  exact absurd hout (by decide)

/-- A transfer with clear buffers is refused nowhere (R189, R331). -/
theorem transfer_acceptable {e : Engine} {rxv : Bool} {send recv count : Word} (hready : e.isReady = true)
    (hsend : BufferClear e send.toNat count.toNat) (hrecv : rxv = true → BufferClear e recv.toNat count.toNat) :
    bufferWraps (bufferOperand rxv recv) count.toNat = false ∧
      inRegisterBlock e (transferOps true rxv send recv count) = false := by
  cases rxv with
  | false => simp [bufferWraps, bufferOperand, inRegisterBlock, transferOps, bufferMeetsBlock, hsend.not_meetsBlock hready]
  | true =>
    have hclear := hrecv rfl
    simp [bufferWraps, bufferOperand, inRegisterBlock, transferOps, bufferMeetsBlock, hsend.not_meetsBlock hready,
      hclear.not_meetsBlock hready, hclear.bufWraps]

@[simp] theorem crManualCs_crWithSs (v : Word) (e : BitVec 4) : crManualCs (crWithSs v e) = crManualCs v := by
  simp [crManualCs, crWithSs, Config.ssMask, Config.ssShift]

/-- The selection the start applies is stored whole (R89), and the end undoes it (R186, R187). -/
theorem crStored_crSelected {cr : Word} (h : crStored cr = cr) (ss : BitVec 4) :
    crStored (crSelected cr ss) = crSelected cr ss := by
  unfold crSelected
  split
  · simp
  · exact h

theorem crAfterDeassert_crSelected {cr : Word} (h : crStored cr = cr) (ss : BitVec 4) :
    crAfterDeassert (crSelected cr ss) = crAfterDeassert cr := by
  unfold crSelected crAfterDeassert
  split <;> simp_all

/-- The Host takes a `POLLED_TRANSFER` from its stream, whatever moves are still to be drawn. -/
theorem step_takes_polledTransfer {s u : State} {rxv : Bool} {send recv count : Word} {rest : List Word} (moves : List Move)
    (hfree : HostFree s) (hcalm : Undisturbed s) (hrecv : rxv = false → recv = 0#32)
    (h : exec (.polledTransfer true rxv send recv count) { s with stream := rest } = .next u) :
    step (withSchedule moves { s with stream := encode (.polledTransfer true rxv send recv count) ++ rest }) =
      .next (withSchedule moves u) := by
  have hwf : (Instr.polledTransfer true rxv send recv count).wellFormed = true := by
    cases rxv with
    | false => simp [Instr.wellFormed, bufferWordOk, hrecv]
    | true => simp [Instr.wellFormed, bufferWordOk]
  refine ((stepRunsDecodedCommand _ _ rest ?_ (decode_encode hwf rest) rfl).1 ?_).trans ?_
  · exact hfree
  · exact hcalm.otherEnabled
  · exact exec_withSchedule moves (by nofun) h

/-! ### The statement -/

/-- Settles O47: the command taken from the stream starts the transfer (O21), the loop passes every batch, and the end returns. -/
theorem polledTransferCompletes : Obligations.PolledTransferCompletes := by
  unfold Obligations.PolledTransferCompletes
  intro s rxv send recv count rest answers hfree hcalm hready hbusy hcr htx hrx hcount hrecv0 hsend hrecv hlen
  obtain ⟨hwrap, hblock⟩ := transfer_acceptable hready hsend hrecv
  obtain ⟨u, -, hexec, hue, hud, hum, hup⟩ := transferStarts_both (k := .polled) (s := { s with stream := rest })
    hready hbusy hcount hsend.bufWraps hwrap
  have hstart : exec (.polledTransfer true rxv send recv count) { s with stream := rest } = .next u :=
    hexec hblock hfree hcalm
  obtain ⟨-, hstream, hactive⟩ := exec_frame (by nofun) hstart
  have hhead : AtLoopHead u send.toNat := by
    refine ⟨hup, by rw [hue]; rfl, by rw [hue]; rfl, by rw [hud], ?_, ?_, ?_⟩
    all_goals rw [hud]
    exacts [crStored_crSelected hcr _, htx, hrx]
  have hreceive : u.engine.recvBuffer = bufferOperand rxv recv := by rw [hue]; rfl
  obtain ⟨t, hfollows, hdone⟩ := hhead.follows_end (answers := answers) (hactive.trans hfree.2) (by rw [hlen, hue]; rfl)
    (by rw [hue, hlen]; exact hsend) (fun r hr => by
      rw [hreceive] at hr
      obtain ⟨hrxv, rfl⟩ : rxv = true ∧ recv.toNat = r := by simpa [bufferOperand] using hr
      rw [hue, hlen]
      exact hrecv hrxv)
  obtain ⟨n, moves, hsteps⟩ := hfollows.steps
  refine ⟨moves ++ [], 1 + n, withSchedule [] t, (steps_add ?_).trans (hsteps []), hdone.hostPc,
    hfollows.stream.trans hstream, hdone.returned, ?_, hdone.busy, hdone.requested, hdone.remaining, ?_, ?_, ?_⟩
  · have hfetch := step_takes_polledTransfer (moves ++ []) hfree hcalm hrecv0 hstart
    exact steps_one hfetch
  · refine hdone.mem.trans ?_
    rw [hreceive, hum]
    cases rxv <;> rfl
  all_goals refine (congrArg _ hdone.dev).trans ?_
  · rfl
  · rw [hud]
    exact crAfterDeassert_crSelected hcr _
  · rw [hud]

end Sys2Proof.Machine
end

section
/-! SUPPORT. What the two transfers' start lines do where they do not come to the enable of the device: a busy engine turns the
command away (R201), and wherever the meaning ends before `P13` or `T13` the start has its frame (R200, R220). -/

namespace Sys2Proof.Machine

/-! ### The lines of the start -/

/-- The name of the command, as the trace has it. -/
def TransferKind.command : TransferKind → Command
  | .polled => .polledTransfer
  | .interrupt => .transfer

/-- A line of the start, in the one form that `POLLED_TRANSFER` (R200) and `TRANSFER` (R220) share. -/
def TransferKind.startLine (k : TransferKind) (l : StartLine) (s : State) : Result :=
  match l with
  | .checkReady => checkReady s (.next (goHost (k.line .checkSend) s))
  | .checkSend => if s.hostOps.send = none then .fault (.nullSendBuffer s) else .next (goHost (k.line .checkCount) s)
  | .checkCount => if s.hostOps.count = 0#32 then .fault (.zeroCount s) else .next (goHost (k.line .checkWrap) s)
  | .checkWrap =>
    if bufferWraps s.hostOps.send s.hostOps.count.toNat || bufferWraps s.hostOps.recv s.hostOps.count.toNat then
      .fault (.bufferWrap s)
    else .next (goHost (k.line .checkBusy) s)
  | .checkBusy =>
    if s.engine.isBusy then .next (hostReturn k.command (some Config.deviceBusy) s)
    else .next (goHost (k.line .claim) s)
  | .claim => .next (goHost (k.line .buffers) (setBusy true s))
  | .buffers => .next (goHost (k.line .counters) (installBuffers s))
  | .counters => .next (goHost (k.line .readSelect) (k.installCounters s))
  | .readSelect => readCrLocal .host (goHost (k.line .testManual)) s
  | .testManual =>
    if crManualCs s.hostLoc.cr = false then .next (goHost (k.line .enable) s)
    else .next (goHost (k.line .writeSelect) s)
  | .writeSelect => writeSelect .host (goHost (k.line .enable)) s
  | .enable => regWrite Config.offEr 1#32 s fun s => .next (goHost (k.line .begun) s)
  | .begun => hostLine (k.line .begun) s

theorem TransferKind.hostLine_eq (k : TransferKind) (l : StartLine) (s : State) :
    hostLine (k.line l) s = k.startLine l s := by
  cases k <;> cases l <;> rfl

/-! ### A busy engine -/

/-- `P1` to `P4`, `T1` to `T4`: the preconditions are met, whether the engine is busy or not. -/
theorem transferPreconditions_runs {C : Prop} {k : TransferKind} {s : State} (hp : s.hostPc = .line (k.line .checkReady))
    (hready : s.engine.isReady = true) (hsend : s.hostOps.send ≠ none) (hcount : s.hostOps.count ≠ 0#32)
    (hwrap : (bufferWraps s.hostOps.send s.hostOps.count.toNat || bufferWraps s.hostOps.recv s.hostOps.count.toNat) = false) :
    Runs C .host 4 s (goHost (k.line .checkBusy) s) := by
  have hchecked : Runs C .host 1 s (goHost (k.line .checkSend) s) :=
    .hostLine hp ((k.hostLine_eq _ s).trans (if_pos hready)) rfl
  have hpresent : Runs C .host 1 (goHost (k.line .checkSend) s) (goHost (k.line .checkCount) s) :=
    .hostLine rfl ((k.hostLine_eq _ _).trans (if_neg hsend)) rfl
  have hnonzero : Runs C .host 1 (goHost (k.line .checkCount) s) (goHost (k.line .checkWrap) s) :=
    .hostLine rfl ((k.hostLine_eq _ _).trans (if_neg hcount)) rfl
  have hfits : Runs C .host 1 (goHost (k.line .checkWrap) s) (goHost (k.line .checkBusy) s) :=
    .hostLine rfl ((k.hostLine_eq _ _).trans (if_neg (by simpa using hwrap))) rfl
  exact ((hchecked.trans hpresent).trans hnonzero).trans hfits

/-- A busy engine's transfer with its preconditions met returns `DEVICE_BUSY` (R201): by its lines from any state of the device,
and by its meaning. -/
theorem transferBusy_both {k : TransferKind} {s t : State} {rxv : Bool} {send recv count : Word}
    (hready : s.engine.isReady = true) (hbusy : s.engine.isBusy = true) (hcount : count ≠ 0#32)
    (hsend : bufWraps send.toNat count.toNat = false) (hrecv : bufferWraps (bufferOperand rxv recv) count.toNat = false)
    (hblock : inRegisterBlock s.engine (transferOps true rxv send recv count) = false)
    (ht : t = hostReturn k.command (some Config.deviceBusy) s) :
    (∃ n, commandLines (k.instr rxv send recv count) n s = .next t) ∧
      (HostFree s → Undisturbed s → exec (k.instr rxv send recv count) s = .next t) := by
  have hops : operands (k.instr rxv send recv count) = transferOps true rxv send recv count := by cases k <;> rfl
  have hfirst : firstLine (k.instr rxv send recv count) = some (k.line .checkReady) := by cases k <;> rfl
  have hexec : exec (k.instr rxv send recv count) s =
      issue (transferOps true rxv send recv count) (k.line .checkReady) s := by
    rw [← issueTransfer_clear hblock]
    cases k <;> rfl
  have hmet := transferPreconditions_runs (C := True) (k := k)
    (s := started (transferOps true rxv send recv count) (k.line .checkReady) s) rfl hready
    (by simp [transferOps, bufferOperand]) hcount (by simpa [transferOps, bufferOperand, bufferWraps] using ⟨hsend, hrecv⟩)
  have hturned : Runs True .host 1 (goHost (k.line .checkBusy) (started (transferOps true rxv send recv count)
      (k.line .checkReady) s)) t :=
    .hostLine rfl (by rw [ht]; exact (k.hostLine_eq _ _).trans (if_pos hbusy)) (by rw [ht]; rfl)
  exact command_of_unconditional_runs hfirst (by rw [hops, hexec]) (by rw [hops]; exact hmet.trans hturned) (by rw [ht]; rfl)
    (by simp only [aheadBound]; omega)

/-- Settles O24: the preconditions' lines, then `P5` and `T5` return. -/
theorem transfersWhileBusyReturnBusy : Obligations.TransfersWhileBusyReturnBusy := by
  unfold Obligations.TransfersWhileBusyReturnBusy
  intro s t u rxv send recv count hready hbusy hcount hsend hrecv hblock ht hu
  obtain ⟨hpolled, hpolledExec⟩ := transferBusy_both (k := .polled) hready hbusy hcount hsend hrecv hblock ht
  obtain ⟨htransfer, htransferExec⟩ := transferBusy_both (k := .interrupt) hready hbusy hcount hsend hrecv hblock hu
  exact ⟨hpolled, htransfer, fun hf hs => ⟨hpolledExec hf hs, htransferExec hf hs⟩⟩

/-! ### Where the meaning of a start ends -/

/-- What every line of an agent keeps where no other agent can step, the lines run ahead keep. -/
theorem runAhead_keeps_alone {P : State → Prop} {a : Agent}
    (hP : ∀ s t, P s → running a s = true → otherEnabled s = false → lineStep a s = .next t → P t) {n : Nat} {s t : State}
    (hs : P s) (h : runAhead a n s = .next t) : P t := by
  induction n generalizing s with
  | zero => cases h; exact hs
  | succ n ih =>
    simp only [runAhead] at h
    split at h
    · next hr =>
      simp only [Bool.and_eq_true, Bool.not_eq_true'] at hr
      split at h
      · next s' hl => exact ih (hP s s' hs hr.1 hr.2 hl) h
      · cases h
      · cases h
    · cases h; exact hs

/-- `issue_frame` for a command that is not followed past its line `last`, because another agent can step there. -/
theorem issue_frame_until {L : Type} {line : L → HostLine} {A : L → State → Prop} {R : State → Prop} {o : HostOps}
    {k last : L} {s t : State} (hstart : A k (started o (line k) s)) (hk : k ≠ last) (hstop : ∀ k u, A k u → R u)
    (hlast : ∀ u, A last u → otherEnabled u = true)
    (hline : ∀ k u v, k ≠ last → A k u → hostLine (line k) u = .next v → InLines line A R v)
    (h : issue o (line k) s = .next t) : HostFrame s t ∧ R t := by
  have hkeep : ∀ u v, HostFrame s u ∧ InLines line A R u → running .host u = true → otherEnabled u = false →
      lineStep .host u = .next v → HostFrame s v ∧ InLines line A R v := by
    rintro u v ⟨hf, hu⟩ hr ho hl
    cases hu with
    | stands j hp hA =>
      have hj : hostLine (line j) u = .next v := by simpa [lineStep, hostStep, hp] using hl
      have hne : j ≠ last := by rintro rfl; simp [hlast u hA] at ho
      exact ⟨hf.trans (hostLine_hostFrame hp hj), hline j u v hne hA hj⟩
    | returned hp hR => simp [running, hp] at hr
  obtain ⟨-, u, hu, hrun⟩ := issue_next h
  have hfirst : HostFrame s u ∧ InLines line A R u :=
    ⟨(started_hostFrame o _ s).trans (hostLine_hostFrame rfl hu), hline k _ u hk hstart hu⟩
  obtain ⟨hf, hin⟩ := runAhead_keeps_alone hkeep hfirst hrun
  cases hin with
  | stands j _ hA => exact ⟨hf, hstop j t hA⟩
  | returned _ hR => exact ⟨hf, hR⟩

/-! ### The frame of the start -/

/-- The engine records agree but for the transfer's own fields; of those, `POLLED_TRANSFER` leaves the total alone. -/
def OnlyTransfer (k : TransferKind) (e e' : Engine) : Prop :=
  e' = { e with
    isBusy := e'.isBusy
    sendBuffer := e'.sendBuffer
    recvBuffer := e'.recvBuffer
    requestedBytes := e'.requestedBytes
    remainingBytes := e'.remainingBytes
    totalBytes := e'.totalBytes } ∧
  (k = .polled → e'.totalBytes = e.totalBytes)

theorem OnlyTransfer.slaveSelect {k : TransferKind} {e e' : Engine} (h : OnlyTransfer k e e') :
    e'.slaveSelect = e.slaveSelect := by rw [h.1]

theorem OnlyTransfer.setBusy {k : TransferKind} {e e' : Engine} (h : OnlyTransfer k e e') (v : Bool) :
    OnlyTransfer k e { e' with isBusy := v } :=
  ⟨by rw [h.1], h.2⟩

theorem OnlyTransfer.installBuffers {k : TransferKind} {e : Engine} {u : State} (h : OnlyTransfer k e u.engine) :
    OnlyTransfer k e (installBuffers u).engine :=
  ⟨by rw [installBuffers_engine, h.1], h.2⟩

theorem OnlyTransfer.installCounters {k : TransferKind} {e : Engine} {u : State} (h : OnlyTransfer k e u.engine) :
    OnlyTransfer k e (k.installCounters u).engine := by
  refine ⟨by rw [k.installCounters_engine, h.1], ?_⟩
  rintro rfl
  exact h.2 rfl

/-- Register blocks that agree but for `CR` do so with the same enable set in both. -/
theorem OnlyCr.setEn {d d' : Dev} {w : Word} (h : OnlyCr d d' w) (b : Bool) :
    OnlyCr { d with en := b } { d' with en := b } w :=
  ⟨by rw [h.1], h.2⟩

/-- What a start in `s` writes to `CR` where manual chip-select is configured (R187). -/
def selectWritten (s : State) : Word := crWithSs (crStored s.dev.cr) s.engine.slaveSelect

/-- What the start in `s` has done to the register block at a line: `CR` is read before the chip-select apply, and the device is
enabled at the end. -/
def StartDevAt (s : State) (l : StartLine) (u : State) : Prop :=
  match l with
  | .testManual | .writeSelect => CrStage.read.Holds s u (selectWritten s)
  | .enable => OnlyCr s.dev u.dev (selectWritten s)
  | .begun => u.dev.en = true ∧ OnlyCr { s.dev with en := true } u.dev (selectWritten s)
  | _ => CrStage.before.Holds s u (selectWritten s)

/-- What a transfer started in `s` has done at a line of its start. -/
def StartAt (k : TransferKind) (s : State) (l : StartLine) (u : State) : Prop :=
  OnlyTransfer k s.engine u.engine ∧ StartDevAt s l u

/-- What a transfer started in `s` has done at any line of its start and when it is turned away. -/
def StartDone (k : TransferKind) (s u : State) : Prop :=
  OnlyTransfer k s.engine u.engine ∧ OnlyCr { s.dev with en := u.dev.en } u.dev (selectWritten s)

theorem StartAt.done {k : TransferKind} {s u : State} {l : StartLine} (h : StartAt k s l u) : StartDone k s u := by
  obtain ⟨heng, hdev⟩ := h
  refine ⟨heng, ?_⟩
  cases l
  case begun =>
    obtain ⟨hen, hcr⟩ := hdev
    rw [hen]; exact hcr
  case enable => exact OnlyCr.setEn hdev _
  case testManual | writeSelect => exact (CrStage.Holds.onlyCr (g := .read) hdev).setEn _
  all_goals exact (CrStage.Holds.onlyCr (g := .before) hdev).setEn _

theorem StartAt.line {k : TransferKind} {s u v : State} {l : StartLine} (hl : l ≠ .begun) (hu : StartAt k s l u)
    (h : hostLine (k.line l) u = .next v) : InLines k.line (StartAt k s) (StartDone k s) v := by
  rw [k.hostLine_eq] at h
  cases l <;> simp only [TransferKind.startLine, readCrLocal_eq, writeSelect_eq, regWrite_er] at h
  case checkReady => obtain ⟨-, h⟩ := checkReady_next h; cases h; exact .stands .checkSend rfl hu
  case checkSend => split at h <;> cases h; exact .stands .checkCount rfl hu
  case checkCount => split at h <;> cases h; exact .stands .checkWrap rfl hu
  case checkWrap => split at h <;> cases h; exact .stands .checkBusy rfl hu
  case checkBusy =>
    split at h <;> cases h
    · exact .returned rfl hu.done
    · exact .stands .claim rfl hu
  case claim => cases h; exact .stands .buffers rfl ⟨hu.1.setBusy true, hu.2⟩
  case buffers => cases h; exact .stands .counters rfl ⟨hu.1.installBuffers, hu.2⟩
  case counters =>
    obtain ⟨heng, (hdev : u.dev = s.dev)⟩ := hu
    cases h; exact .stands .readSelect rfl ⟨heng.installCounters, (k.installCounters_dev u).trans hdev⟩
  case readSelect =>
    obtain ⟨heng, (hdev : u.dev = s.dev)⟩ := hu
    cases h; exact .stands .testManual rfl ⟨heng, hdev, by simp [hdev]⟩
  case testManual =>
    obtain ⟨heng, hread⟩ := hu
    split at h <;> cases h
    · exact .stands .enable rfl ⟨heng, CrStage.Holds.onlyCr (g := .read) hread⟩
    · exact .stands .writeSelect rfl ⟨heng, hread⟩
  case writeSelect =>
    obtain ⟨heng, hdev, hread⟩ := hu
    have hwritten : CrStage.written.Holds s v (selectWritten s) := by
      cases h; simp [CrStage.Holds, selectWritten, writeReg, hdev, hread, heng.slaveSelect]
    cases h; exact .stands .enable rfl ⟨heng, hwritten.onlyCr⟩
  case enable =>
    obtain ⟨heng, hcr⟩ := hu
    have hen : v.dev = { u.dev with en := true } := by cases h; simp [writeReg]
    have hdev : StartDevAt s .begun v := by
      refine ⟨by rw [hen], ?_⟩
      rw [hen]; exact OnlyCr.setEn hcr true
    cases h; exact .stands .begun rfl ⟨heng, hdev⟩
  case begun => exact absurd rfl hl

/-- Wherever the meaning of a transfer ends, it is in the start or turned away: at the line after the enable another agent can
step (notes/assumptions/1.md). -/
theorem issueTransfer_frame {k : TransferKind} {o : HostOps} {s t : State}
    (h : issueTransfer o (k.line .checkReady) s = .next t) : HostFrame s t ∧ StartDone k s t := by
  refine issue_frame_until (A := StartAt k s) (k := .checkReady) (last := .begun) ⟨⟨rfl, fun _ => rfl⟩, rfl⟩ nofun
    (fun _ _ hu => hu.done) (fun u hu => ?_) (fun _ _ _ hl hu => hu.line hl) (issueTransfer_next h).2
  obtain ⟨-, hen, -⟩ := hu
  simp [otherEnabled_eq, hen]

/-- Settles O29: the frame of the start, of either transfer. -/
theorem transferStartsFrame : Obligations.TransferStartsFrame := by
  unfold Obligations.TransferStartsFrame
  refine fun s t txv rxv send recv count => ⟨?_, fun h => ?_⟩
  · rintro (h | h)
    · obtain ⟨hf, ⟨heng, -⟩, hdev, hcr⟩ := issueTransfer_frame (k := .polled) h
      exact ⟨hf, hdev, hcr, heng⟩
    · obtain ⟨hf, ⟨heng, -⟩, hdev, hcr⟩ := issueTransfer_frame (k := .interrupt) h
      exact ⟨hf, hdev, hcr, heng⟩
  · obtain ⟨-, ⟨-, htotal⟩, -⟩ := issueTransfer_frame (k := .polled) h
    exact htotal rfl

end Sys2Proof.Machine
end

section
/-! SUPPORT. The activation with no transfer in flight, of a disabled device (R237): its lines one by one with the other
agents watching, as `exec` runs them (notes/assumptions/1.md). -/

namespace Sys2Proof.Machine

/-! ### The lines of the activation -/

/-- While the Handler of a disabled device is active, no other agent comes between its lines (R290, R300). -/
theorem runAhead_handlerStep {s : State} (ha : s.handlerActive = true) (hen : s.dev.en = false) (m : Nat) :
    runAhead .handler (m + 1) s =
      match handlerStep s with
      | .next t => runAhead .handler m t
      | .fault f => .fault f
      | .refused r => .refused r := by
  have hr : running .handler s = true := ha
  have ho : otherEnabled s = false := by simp [otherEnabled_eq, ha, hen]
  simp only [runAhead, hr, ho]
  rfl

/-- The activation at its call of `DeassertIfManual`: the status latched, the sources of a transfer masked, no byte moved. -/
def emptyBatchDone (s : State) : State :=
  { s with
    dev := { s.dev with rxovr := false, txuf := false, imr := s.dev.imr &&& ~~~(0x47#7) }
    handlerPc := .line .h14
    handlerLoc := { s.handlerLoc with sr := srValue s.params s.dev, k := 0#32 }
    trace := s.trace ++ [
      .rdReg Config.offSr (srValue s.params s.dev),
      .wrReg Config.offSr (srValue s.params s.dev &&& Config.w1cAll),
      .wrReg Config.offIdr Config.bTxrdy,
      .wrReg Config.offIdr Config.irqXfer] }

/-- `H1` to `H13`: neither `Drain` nor `Fill` finds a byte to move (R225, R237). -/
theorem runAhead_emptyBatch {s : State} (ha : s.handlerActive = true) (hp : s.handlerPc = .line .h1)
    (hen : s.dev.en = false) (hmodf : s.dev.modf = false) (htx : s.dev.txFifo = [])
    (hreq : s.engine.requestedBytes = 0#32) (hrem : s.engine.remainingBytes = 0#32) (m : Nat) :
    runAhead .handler (m + 11) s = runAhead .handler m (emptyBatchDone s) := by
  simp [runAhead_handlerStep, handlerStep, handlerLine, ha, hp, hen, hmodf, htx, hreq, hrem, clearSticky_latched,
    writeReg, diff, callSub, subLine, drainD1, fillF1, fillF2, goSub, returnToCaller, afterHandlerCall, goHandler,
    setLocals, log, emptyBatchDone, mask_irqXfer_mask]

/-- `H14`: `DeassertIfManual`, which writes nothing but `CR` (R186). -/
theorem runAhead_deassert {s : State} (ha : s.handlerActive = true) (hp : s.handlerPc = .line .h14)
    (hen : s.dev.en = false) :
    ∃ k ≤ 3, ∃ cr loc events, loc.sr = s.handlerLoc.sr ∧ ∀ m, runAhead .handler (m + k) s = runAhead .handler m { s with
      dev := { s.dev with cr := cr }
      handlerPc := .line .h15
      handlerLoc := loc
      trace := s.trace ++ events } := by
  by_cases hmanual : crManualCs s.dev.cr = false
  · refine ⟨2, by omega, s.dev.cr, { s.handlerLoc with cr := crStored s.dev.cr },
      [.rdReg Config.offCr (crStored s.dev.cr)], rfl, fun m => ?_⟩
    simp (disch := simp [ha, hen]) [runAhead_handlerStep, handlerStep, handlerLine, hp, hmanual, callSub, subLine,
      deassertC1, deassertC2, goSub, returnToCaller, afterHandlerCall, goHandler, setLocals, log]
  · refine ⟨3, le_rfl, crDeasserted (crStored s.dev.cr), { s.handlerLoc with cr := crStored s.dev.cr },
      [.rdReg Config.offCr (crStored s.dev.cr), .wrReg Config.offCr (crDeasserted (crStored s.dev.cr))], rfl, fun m => ?_⟩
    simp [runAhead_handlerStep, handlerStep, handlerLine, ha, hp, hen, hmanual, writeReg, callSub, subLine, deassertC1,
      deassertC2, deassertC3, goSub, returnToCaller, afterHandlerCall, goHandler, setLocals, log]

/-- `H15` to `H30`: the completion is reported as the last event, and the Handler returns (R229, R343). -/
theorem runAhead_completion {s : State} {id : Word} (ha : s.handlerActive = true) (hp : s.handlerPc = .line .h15)
    (hen : s.dev.en = false) (hrxovr : srRxovr s.handlerLoc.sr = false) (htxuf : srTxuf s.handlerLoc.sr = false)
    (hid : s.engine.statusCallback = .registered id) (m : Nat) :
    runAhead .handler (m + 6) s = runAhead .handler m { s with
      engine := { s.engine with isBusy := false }
      dev := { s.dev with startArmed := false }
      handlerActive := false
      handlerPc := .line .h1
      handlerLoc := Locals.fresh
      trace := s.trace ++ [.wrReg Config.offEr 0#32] ++
        [.cb s.engine.callbackContext id .transferDone (finalCount s.params s.engine)] } := by
  simp [runAhead_handlerStep, handlerStep, handlerLine, ha, hp, hen, hrxovr, htxuf, hid, writeReg, callback,
    completeCount_eq, finalCount, goHandler, log, trapReturn]

/-- The whole activation: the device is disabled as it was, the engine idle, and the completion reported last. -/
theorem runAhead_idleActivation {s : State} {id : Word} (ha : s.handlerActive = true) (hp : s.handlerPc = .line .h1)
    (hen : s.dev.en = false) (hmodf : s.dev.modf = false) (hrxovr : s.dev.rxovr = false) (htxuf : s.dev.txuf = false)
    (htx : s.dev.txFifo = []) (hreq : s.engine.requestedBytes = 0#32) (hrem : s.engine.remainingBytes = 0#32)
    (hid : s.engine.statusCallback = .registered id) :
    ∃ k ≤ 20, ∃ cr before, ∀ m, runAhead .handler (m + k) s = runAhead .handler m { s with
      engine := { s.engine with isBusy := false }
      dev := { s.dev with
        rxovr := false
        txuf := false
        imr := s.dev.imr &&& ~~~(0x47#7)
        cr := cr
        startArmed := false }
      handlerActive := false
      handlerPc := .line .h1
      handlerLoc := Locals.fresh
      trace := before ++ [.cb s.engine.callbackContext id .transferDone (finalCount s.params s.engine)] } := by
  obtain ⟨k, hk, cr, loc, events, hsr, hdeassert⟩ := runAhead_deassert (s := emptyBatchDone s) ha rfl hen
  have hsr' : loc.sr = srValue s.params s.dev := hsr
  refine ⟨6 + k + 11, by omega, cr, (emptyBatchDone s).trace ++ events ++ [.wrReg Config.offEr 0#32], fun m => ?_⟩
  rw [← Nat.add_assoc, ← Nat.add_assoc, runAhead_emptyBatch ha hp hen hmodf htx hreq hrem, hdeassert]
  refine runAhead_completion ?_ ?_ ?_ ?_ ?_ ?_ m
  exacts [ha, rfl, hen, by simp [hsr', hrxovr], by simp [hsr', htxuf], hid]

/-- Settles O26: the start is taken, and the activation is no longer than what is run at once. -/
theorem idleIrqReportsTransferDone : Obligations.IdleIrqReportsTransferDone := by
  unfold Obligations.IdleIrqReportsTransferDone
  intro s id hactive hconn hen htx himr hmodf hrxovr htxuf hreq hrem hid
  have hirq : irqLine s.params s.dev = true := (irqLine_iff _ _).2 ⟨2, by simp [srValue_getLsbD, htx], himr⟩
  have hstart : startEnabled s = true := (startEnabled_iff s).2 ⟨hirq, hactive, hconn⟩
  obtain ⟨k, hk, cr, before, hrun⟩ :=
    runAhead_idleActivation (s := trapEntry s) rfl rfl hen hmodf hrxovr htxuf htx hreq hrem hid
  have hbound : aheadBound s = aheadBound s - k + k := by simp only [aheadBound]; omega
  have hexec : exec .irq s = runAhead .handler (aheadBound s - k + k) (trapEntry s) := by
    rw [← hbound]
    exact if_pos hstart
  refine ⟨_, hexec.trans ((hrun _).trans (runAhead_stop (.inl rfl) _)), ?_, rfl, rfl, hen, rfl, rfl, htx, rfl, rfl, rfl⟩
  cases hcount : s.params.completeCount <;>
    simp only [List.getLast?_concat, trapEntry_engine, trapEntry_params, finalCount, hcount, hreq]

end Sys2Proof.Machine
end

section
/-! SUPPORT. `AbortSeq` followed by what it works on, from either agent's call (R260 to R263), and the activation that latches
a mode fault (R226, R227). -/

namespace Sys2Proof.Machine

/-- Clearing MODF (R90). -/
theorem writeReg_sr_bModf (d : Dev) : writeReg .sr Config.bModf d = { d with modf := false } := by
  simp [writeReg, clearSticky, srRxovr, srModf, srTxuf, Config.bModf]

/-! ### The lines of `AbortSeq` -/

section

variable {s₀ : State} {calls : List Event} {last : Bool} {c : AgentLine} {v : View}

/-- `A2`: the device is disabled, which disarms a start (R93). -/
theorem Reaches.abortA2 (h : Reaches s₀ calls last (.line c) v) (hc : c.calls = some .abortSeq) :
    Reaches s₀ calls false (.sub c .a3) { v with dev := { v.dev with en := false, startArmed := false } } :=
  (h.call hc).inside fun s _ hv => by
    subst hv
    exact ⟨_, rfl, by constructor <;> simp, by cases c <;> simp [view, writeReg, AgentLine.agent]⟩

/-- `A3`: the status is read. -/
theorem Reaches.abortA3 (h : Reaches s₀ calls last (.sub c .a3) v) :
    Reaches s₀ calls false (.sub c .a4) { v with loc := { v.loc with sr := srValue s₀.params v.dev } } :=
  h.inside fun s hp hv => by
    subst hv
    rw [← hp]
    exact ⟨_, readSrLocal_eq _ _ _, by constructor <;> simp, by cases c <;> rfl⟩

/-- `A4` with no byte left. -/
theorem Reaches.abortA4_stop (h : Reaches s₀ calls last (.sub c .a4) v) (hstop : srRxne v.loc.sr = false) :
    Reaches s₀ calls false (.sub c .a7) v :=
  h.inside fun s _ hv => by
    subst hv
    exact ⟨s, if_pos hstop, .refl s, rfl⟩

/-- `A4` with a byte to pop. -/
theorem Reaches.abortA4 (h : Reaches s₀ calls last (.sub c .a4) v) (hgo : ¬srRxne v.loc.sr = false) :
    Reaches s₀ calls false (.sub c .a5) v :=
  h.inside fun s _ hv => by
    subst hv
    exact ⟨s, if_neg hgo, .refl s, rfl⟩

/-- `A5`: a byte is popped and discarded (R261). -/
theorem Reaches.abortA5 {b : Byte} {rest : List Byte} (h : Reaches s₀ calls last (.sub c .a5) v)
    (hrx : v.dev.rxFifo = b :: rest) :
    Reaches s₀ calls false (.sub c .a6) { v with dev := { v.dev with rxFifo := rest } } :=
  h.inside fun s _ hv => by
    subst hv
    exact ⟨_, by rw [subLine, Machine.abortA5, regRead_rxd_cons hrx], by constructor <;> simp, by cases c <;> rfl⟩

/-- `A6`: the loop goes on. -/
theorem Reaches.abortA6 (h : Reaches s₀ calls last (.sub c .a6) v) : Reaches s₀ calls false (.sub c .a3) v :=
  h.inside fun s _ hv => ⟨s, rfl, .refl s, hv⟩

/-- The drain loop ends with the RX FIFO empty, by induction on the bytes in it (R261). -/
theorem Reaches.abortDrain {rx : List Byte} (h : Reaches s₀ calls last (.sub c .a3) v) (hrx : v.dev.rxFifo = rx) :
    ∃ sr, Reaches s₀ calls false (.sub c .a7) { v with
      dev := { v.dev with rxFifo := [] }
      loc := { v.loc with sr := sr } } := by
  induction rx generalizing v last with
  | nil => exact ⟨_, (h.abortA3.abortA4_stop (by simp [hrx])).cast (by rw [← hrx])⟩
  | cons b rest ih =>
    have hpopped := ((h.abortA3.abortA4 (by simp [hrx])).abortA5 hrx).abortA6
    obtain ⟨sr, h7⟩ := ih hpopped rfl
    exact ⟨sr, h7⟩

/-- `A7`: MODF is cleared (R90). -/
theorem Reaches.abortA7 (h : Reaches s₀ calls last (.sub c .a7) v) :
    Reaches s₀ calls false (.sub c .a8) { v with dev := { v.dev with modf := false } } :=
  h.inside fun s _ hv => by
    subst hv
    rw [← writeReg_sr_bModf]
    exact ⟨_, rfl, by constructor <;> simp, by cases c <;> rfl⟩

/-- `A8`: the counters are reset. -/
theorem Reaches.abortA8 (h : Reaches s₀ calls last (.sub c .a8) v) :
    Reaches s₀ calls false (.sub c .a9) { v with
      engine := { v.engine with requestedBytes := 0#32, remainingBytes := 0#32 } } :=
  h.inside fun s _ hv => by
    subst hv
    exact ⟨_, rfl, by constructor <;> simp, by cases c <;> rfl⟩

/-- `A9`: the busy flag is cleared, and the caller goes on. -/
theorem Reaches.abortA9 (h : Reaches s₀ calls last (.sub c .a9) v) :
    Reaches s₀ calls false (.line c.next) { v with engine := { v.engine with isBusy := false } } :=
  h.back fun s _ hv => by
    subst hv
    exact ⟨_, rfl, by constructor <;> simp, by cases c <;> rfl⟩

/-- `AbortSeq` from its call (R260). -/
theorem Reaches.abortSeq (h : Reaches s₀ calls last (.line c) v) (hc : c.calls = some .abortSeq) :
    ∃ sr, Reaches s₀ calls false (.line c.next) { v with
      engine := { v.engine with isBusy := false, requestedBytes := 0#32, remainingBytes := 0#32 }
      dev := { v.dev with en := false, startArmed := false, rxFifo := [], modf := false }
      loc := { v.loc with sr := sr } } := by
  obtain ⟨sr, h7⟩ := (h.abortA2 hc).abortDrain rfl
  exact ⟨sr, h7.abortA7.abortA8.abortA9⟩

/-! ### The activation -/

/-- `H1` to `H3`: the status is latched, its sticky flags cleared and TXRDY masked, whatever was latched (R225). -/
theorem Reaches.readsStatus (h : Reaches s₀ calls last (.line (.handler .h1)) v) :
    Reaches s₀ calls false (.line (.handler .h4)) { v with
      dev := { v.dev with rxovr := false, modf := false, txuf := false, imr := mask Config.bTxrdy v.dev.imr }
      loc := { v.loc with sr := srValue s₀.params v.dev } } := by
  have h2 : Reaches s₀ calls false (.line (.handler .h2)) { v with loc := { v.loc with sr := srValue s₀.params v.dev } } :=
    h.handlerLine fun s hp hv hrep => by
      subst hv
      rw [← hp]
      exact ⟨_, readSrLocal_eq _ _ _, rfl, rfl, hrep.event rfl rfl⟩
  have h3 := h2.writes (l' := .h3) (r := .sr) (w := srValue s₀.params v.dev &&& Config.w1cAll) (off := Config.offSr)
    fun s hv => by
      have hsr : s.handlerLoc.sr = srValue s₀.params v.dev := congrArg (·.loc.sr) hv
      simp [Machine.handlerLine, hsr]
  have h4 := h3.writes (l' := .h4) (r := .idr) (w := Config.bTxrdy) (off := Config.offIdr) fun _ _ => rfl
  exact h4.cast (by simp [writeReg, clearSticky_latched])

/-- `H4` with a mode fault latched (R226). -/
theorem Reaches.takesModeFault (h : Reaches s₀ calls last (.line (.handler .h4)) v) (hsr : srModf v.loc.sr = true) :
    Reaches s₀ calls last (.line (.handler .h5)) v :=
  h.goes fun s hv => by
    have hsr' : s.handlerLoc.sr = v.loc.sr := congrArg (·.loc.sr) hv
    simp [Machine.handlerLine, hsr', hsr]

/-- `H7`: the mode fault is reported and the Handler returns (R227, R343). -/
theorem Reaches.reportsModeFault {id : Word} (h : Reaches s₀ calls last (.line (.handler .h7)) v)
    (hid : v.engine.statusCallback = .registered id) :
    ∃ n t, runLines .handler n s₀ = .next t ∧ t.handlerActive = false ∧ t.engine = v.engine ∧ t.dev = v.dev ∧
      t.mem = v.mem ∧ Reports (calls ++ [.cb v.engine.callbackContext id .modeFault v.loc.bytes]) true s₀ t := by
  obtain ⟨n, u, hrun, hrep, ⟨ha, hp⟩, rfl⟩ := h
  have hreport : lineStep .handler u =
      .next (trapReturn (log (.cb u.engine.callbackContext id .modeFault u.handlerLoc.bytes) u)) := by
    simp only [lineStep, handlerStep, hp, Machine.handlerLine]
    exact callback_registered hid _ _ _
  exact ⟨n + 1, _, (hrun.lines 1).trans (runLines_line (a := .handler) ha hreport 0), rfl, rfl, rfl, rfl,
    hrep.call rfl rfl⟩

end

/-- Settles O48: the latch, the difference, the abort, and the callback with that difference at the return. -/
theorem modeFaultActivationAborts : Obligations.ModeFaultActivationAborts := by
  unfold Obligations.ModeFaultActivationAborts
  intro s id ha hp hmodf hid hle
  have h4 := (Reaches.start (p := .line (.handler .h1)) ⟨ha, hp⟩).readsStatus
  have h6 := (h4.takesModeFault (by simp [view, hmodf])).takesDiff (l' := .h6) hle fun _ => rfl
  obtain ⟨sr, h7⟩ := h6.abortSeq rfl
  obtain ⟨n, t, hlines, hactive, hengine, hdev, hmem, hrep⟩ := Reaches.reportsModeFault h7 hid
  obtain ⟨events, htrace, hevents⟩ := hrep.one_issued rfl
  refine ⟨n, t, events, hlines, hactive, hengine, ?_⟩
  rw [hdev]
  exact ⟨rfl, rfl, rfl, rfl, rfl, hmem, htrace, hevents⟩

end Sys2Proof.Machine
end

section
/-! SUPPORT. `INIT` while busy, `SET_STATUS_HANDLER`, `CONFIGURE` and `ABORT` from the first line to the return (R260 to R263,
R272, R275, R276, R280, R281): each one run of lines. -/

namespace Sys2Proof.Machine

/-- Settles O16: `I1` accepts the base, then `I2` returns. -/
theorem initWhileBusyChangesNothing : Obligations.InitWhileBusyChangesNothing := by
  unfold Obligations.InitWhileBusyChangesNothing
  intro s t base hbusy hbase ht
  have hi1 : Runs True .host 1 (started (initOps base) (.init .i1) s)
      (goHost (.init .i2) (started (initOps base) (.init .i1) s)) :=
    .hostLine rfl (if_neg (not_not.2 hbase)) rfl
  have hi2 : Runs True .host 1 (goHost (.init .i2) (started (initOps base) (.init .i1) s)) t :=
    .hostLine rfl (by rw [ht]; exact if_pos hbusy) (by rw [ht]; rfl)
  exact command_of_unconditional_runs (i := .init base) rfl rfl (hi1.trans hi2) (by rw [ht])
    (by simp only [aheadBound]; omega)

/-- Settles O17: `K1` and `K2` let a nonzero handler of a ready engine through, `K3` and `K4` store the pair, `K5` returns. -/
theorem setStatusHandlerRegistersPair : Obligations.SetStatusHandlerRegistersPair := by
  unfold Obligations.SetStatusHandlerRegistersPair
  intro s t handler ctx hready hhandler ht
  have hk1 : Runs True .host 1 (started (setStatusHandlerOps handler ctx) (.setStatusHandler .k1) s)
      (goHost (.setStatusHandler .k2) (started (setStatusHandlerOps handler ctx) (.setStatusHandler .k1) s)) :=
    .hostLine rfl (if_pos hready) rfl
  have hk2 := hk1.trans (.hostLine (l := .setStatusHandler .k2) rfl (if_neg hhandler) rfl)
  have hk3 := hk2.trans (.hostLine (l := .setStatusHandler .k3) rfl rfl rfl)
  have hk4 := hk3.trans (.hostLine (l := .setStatusHandler .k4) rfl rfl rfl)
  have hk5 := hk4.trans (.hostLine (l := .setStatusHandler .k5) (t := t) rfl (by rw [ht]; rfl) (by rw [ht]; rfl))
  exact command_of_unconditional_runs (i := .setStatusHandler handler ctx) rfl rfl hk5 (by rw [ht])
    (by simp only [aheadBound]; omega)

/-! ### `CONFIGURE` -/

/-- The bits of a control register value with the options written: three are the options', the others stand (R280). -/
theorem crConfigured_getLsbD (v : Word) (o : BitVec 3) (j : Nat) :
    (crConfigured v o).getLsbD j =
      if j = 0 then o.getLsbD 0 else if j = 14 then o.getLsbD 1 else if j = 15 then o.getLsbD 2 else v.getLsbD j := by
  by_cases hj : j < 32
  · interval_cases j <;>
      simp [crConfigured, flagAt, Config.mstrenMask, Config.manualCsMask, Config.manstrtEnMask]
  · rw [BitVec.getLsbD_of_ge _ _ (by omega), BitVec.getLsbD_of_ge v _ (by omega), if_neg (by omega), if_neg (by omega),
      if_neg (by omega)]

/-- The select field is not one of the options. -/
theorem crSs_crConfigured (v : Word) (o : BitVec 3) : crSs (crConfigured v o) = crSs v := by
  apply BitVec.eq_of_getLsbD_eq
  intro j hj
  have hne : 10 + j ≠ 0 ∧ 10 + j ≠ 14 ∧ 10 + j ≠ 15 := by omega
  simp only [crSs, BitVec.getLsbD_extractLsb', crConfigured_getLsbD, hne, if_false]

/-- The select field is stored (R89). -/
theorem crSs_crStored (v : Word) : crSs (crStored v) = crSs v := by
  apply BitVec.eq_of_getLsbD_eq
  intro j hj
  interval_cases j <;> simp [crSs, crStored, Config.crStoredMask]

/-- `N4` writes the options over the value read, arms no start and raises no interrupt (R280, R281). -/
theorem configureWrite_runs {C : Prop} {s : State} (hp : s.hostPc = .line (.configure .n4))
    (hcr : s.hostLoc.cr = crStored s.dev.cr) :
    Runs C .host 1 s (goHost (.configure .n5) (log (.wrReg Config.offCr (crConfigured (crStored s.dev.cr) s.hostOps.opts))
      { s with dev := { s.dev with cr := crConfigured (crStored s.dev.cr) s.hostOps.opts } })) :=
  .calm (by simp [running, hp])
    (by simp [lineStep, hostStep, hp, hostLine, configureLine, hcr, writeReg]) id (fun _ hirq => hirq)

/-- `N2` to `N5` on an idle engine write the options over the value read and return `SUCCESS` (R280). -/
theorem configureIdle_runs {C : Prop} {s : State} (hp : s.hostPc = .line (.configure .n2)) (hbusy : s.engine.isBusy = false) :
    Runs C .host 4 s { s with
      dev := { s.dev with cr := crConfigured (crStored s.dev.cr) s.hostOps.opts }
      hostPc := .idle
      hostOps := HostOps.none
      hostLoc := Locals.fresh
      trace := s.trace ++ [.rdReg Config.offCr (crStored s.dev.cr),
        .wrReg Config.offCr (crConfigured (crStored s.dev.cr) s.hostOps.opts), .ret .configure (some Config.success)] } := by
  have hn2 : Runs C .host 1 s (goHost (.configure .n3) s) := .hostLine hp (by simp [hostLine, configureLine, hbusy]) rfl
  have hn3 := hn2.trans (.hostLine (l := .configure .n3) rfl rfl rfl)
  have hn4 := hn3.trans (configureWrite_runs rfl rfl)
  have hn5 := hn4.trans (.hostLine (l := .configure .n5) rfl rfl rfl)
  simpa [hostReturn, log, goHost, setLocals, readReg] using hn5

/-- Settles O18: after `N1`, an idle engine's `N2` to `N5` or a busy one's return at `N2`; the bits of the value written. -/
theorem configureWritesOptions : Obligations.ConfigureWritesOptions := by
  unfold Obligations.ConfigureWritesOptions
  intro s opts hready
  have hn1 : ∀ {C : Prop}, Runs C .host 1 (started (configureOps opts) (.configure .n1) s)
      (goHost (.configure .n2) (started (configureOps opts) (.configure .n1) s)) :=
    .hostLine rfl (if_pos hready) rfl
  refine ⟨fun hbusy => ?_, fun hbusy => ?_⟩
  · have hrun := hn1.trans (configureIdle_runs (C := True) rfl hbusy)
    obtain ⟨hlines, hexec⟩ := command_of_unconditional_runs (i := .configure opts) rfl rfl hrun rfl
      (by simp only [aheadBound]; omega)
    refine ⟨_, hlines, hexec, rfl, crConfigured_getLsbD _ _ 0, crConfigured_getLsbD _ _ 14, crConfigured_getLsbD _ _ 15,
      (crSs_crConfigured _ _).trans (crSs_crStored _), fun j h0 h14 h15 => ?_⟩
    exact (crConfigured_getLsbD _ _ j).trans (by rw [if_neg h0, if_neg h14, if_neg h15]; rfl)
  · have hn2 := hn1.trans (.hostLine (C := True) (l := .configure .n2) rfl (if_pos hbusy) rfl)
    exact (command_of_unconditional_runs (i := .configure opts) rfl rfl hn2 rfl (by simp only [aheadBound]; omega)).1

/-! ### `ABORT` -/

/-- Settles O19: `A1`, then `AbortSeq`, then the return, as one run. -/
theorem abortNormalises : Obligations.AbortNormalises := by
  unfold Obligations.AbortNormalises
  intro s hready
  have ha1 : Runs (BlockOk s) .host 1 (started HostOps.none (.abort .a1) s)
      (goHost (.abort .a2) (started HostOps.none (.abort .a1) s)) :=
    .hostLine rfl (if_pos hready) rfl
  obtain ⟨u, habort, hup, hu⟩ := abortSeq_runs (C := BlockOk s) (l := .abort .a2)
    (s := goHost (.abort .a2) (started HostOps.none (.abort .a1) s)) rfl rfl (fun hb => hb.2.2.1)
  have hrun := (ha1.trans habort).trans (.hostLine (l := .abort .a10) hup rfl rfl)
  obtain ⟨hlines, hexec⟩ := command_of_runs (i := .abort) rfl rfl hrun rfl
    (by simp only [aheadBound, goHost_dev, started_dev]; omega)
  exact ⟨_, hlines, hexec, hu.engine, hu.dev, hu.mem, rfl, by simp⟩

end Sys2Proof.Machine
end

section
/-! SUPPORT. The frames of `ABORT`, `RESET` and `INIT` (R263, R266, R270): what each of their lines, those of `AbortSeq` among
them, leaves alone is left alone wherever the command's meaning ends, be it at the return or before a line where another agent
can step (notes/assumptions/1.md). -/

namespace Sys2Proof.Machine

/-! ### What one line leaves alone -/

/-- The commands that run `AbortSeq`. -/
def lifecycleCommands : List Command := [.abort, .reset, .init]

/-- What the lines of a lifecycle command leave alone: of the register block the mask, RXOVR, TXUF and the TX FIFO, and `CR` but
for its reset by `RESET` and `INIT`; of the engine the total, and, but for `INIT`, all that is not the busy flag or a counter. -/
structure LifecycleKeeps (c : Command) (s t : State) : Prop where
  dev : t.dev = { s.dev with
    en := t.dev.en, startArmed := t.dev.startArmed, rxFifo := t.dev.rxFifo, modf := t.dev.modf, cr := t.dev.cr }
  cr : t.dev.cr = s.dev.cr ∨ c ≠ .abort ∧ t.dev.cr = Config.crReset
  engine : c ≠ .init → t.engine = { s.engine with
    isBusy := t.engine.isBusy
    requestedBytes := t.engine.requestedBytes
    remainingBytes := t.engine.remainingBytes }
  total : t.engine.totalBytes = s.engine.totalBytes

theorem LifecycleKeeps.trans {c : Command} {s t u : State} (h₁ : LifecycleKeeps c s t) (h₂ : LifecycleKeeps c t u) :
    LifecycleKeeps c s u where
  dev := by rw [h₂.dev, h₁.dev]
  cr := by
    rcases h₂.cr with h | h
    · rw [h]; exact h₁.cr
    · exact .inr h
  engine hc := by rw [h₂.engine hc, h₁.engine hc]
  total := h₂.total.trans h₁.total

/-- A change of the register block as `AbortSeq` makes them. -/
theorem LifecycleKeeps.of_dev {c : Command} {s t : State} (he : t.engine = s.engine) (hd : t.dev = { s.dev with
    en := t.dev.en, startArmed := t.dev.startArmed, rxFifo := t.dev.rxFifo, modf := t.dev.modf }) :
    LifecycleKeeps c s t where
  dev := by rw [hd]
  cr := .inl (by rw [hd])
  engine _ := by rw [he]
  total := by rw [he]

/-- A line that leaves the engine and the register block alone. -/
theorem LifecycleKeeps.quiet {c : Command} {s t : State} (he : t.engine = s.engine) (hd : t.dev = s.dev) :
    LifecycleKeeps c s t :=
  .of_dev he (by rw [hd])

/-- A line of `INIT` that binds a field of the engine. -/
theorem LifecycleKeeps.binds {s t : State} (hd : t.dev = s.dev) (ht : t.engine.totalBytes = s.engine.totalBytes) :
    LifecycleKeeps .init s t :=
  ⟨by rw [hd], .inl (by rw [hd]), fun hc => absurd rfl hc, ht⟩

/-- The line of `RESET` and `INIT` that writes `CR`. -/
theorem LifecycleKeeps.resets {c : Command} {s t : State} (hc : c ≠ .abort) (he : t.engine = s.engine)
    (hd : t.dev = writeReg .cr Config.crReset s.dev) : LifecycleKeeps c s t where
  dev := by rw [hd]; rfl
  cr := .inr ⟨hc, by rw [hd]; exact crStored_crReset⟩
  engine _ := by rw [he]
  total := by rw [he]

/-- The lines of `AbortSeq` (R260). -/
theorem subLine_lifecycleKeeps {c : Command} {q : SubLine} {s t : State} (hq : q.sequence = .abortSeq)
    (h : subLine .host q s = .next t) : LifecycleKeeps c s t := by
  cases q <;> simp only [SubLine.sequence, reduceCtorEq] at hq
  all_goals simp only [subLine, abortA2, abortA3, abortA4, abortA5, abortA6, abortA7, abortA8, abortA9, regWrite_er,
    regWrite_sr, readSrLocal_eq] at h
  case a2 => cases h; exact .of_dev (by simp) (by simp [writeReg])
  case a3 => cases h; exact .quiet (by simp) (by simp)
  case a4 => split at h <;> cases h <;> exact .quiet (by simp) (by simp)
  case a5 =>
    rcases hrx : s.dev.rxFifo with _ | ⟨b, rest⟩
    · rw [regRead_rxd_nil hrx] at h; cases h; exact .quiet (by simp) (by simp)
    · rw [regRead_rxd_cons hrx] at h; cases h; exact .of_dev (by simp) (by simp)
  case a6 => cases h; exact .quiet (by simp) (by simp)
  case a7 => cases h; exact .of_dev (by simp) (by simp [writeReg_sr_bModf])
  case a8 | a9 => cases h; exact ⟨by simp, .inl (by simp), fun _ => by simp, by simp⟩

/-- The lines that call it. -/
theorem callSub_lifecycleKeeps {c : Command} {s t : State} (h : callSub .host .a2 s = .next t) : LifecycleKeeps c s t :=
  have hcall : LifecycleKeeps c s (goSub .host .a2 s) := .quiet (by simp) (by simp)
  hcall.trans (subLine_lifecycleKeeps rfl h)

theorem abortLine_lifecycleKeeps {l : AbortLine} {s t : State} (h : abortLine l s = .next t) :
    LifecycleKeeps .abort s t := by
  cases l <;> simp only [abortLine] at h
  case a1 => obtain ⟨-, h⟩ := checkReady_next h; cases h; exact .quiet rfl rfl
  case a2 => exact callSub_lifecycleKeeps h
  case a10 => cases h; exact .quiet rfl rfl

theorem resetLine_lifecycleKeeps {l : ResetLine} {s t : State} (h : resetLine l s = .next t) :
    LifecycleKeeps .reset s t := by
  cases l <;> simp only [resetLine, regWrite_cr] at h
  case x1 => obtain ⟨-, h⟩ := checkReady_next h; cases h; exact .quiet rfl rfl
  case x2 => exact callSub_lifecycleKeeps h
  case x3 => cases h; exact .resets nofun rfl rfl
  case x4 => cases h; exact .quiet rfl rfl

theorem initLine_lifecycleKeeps {l : InitLine} {s t : State} (h : initLine l s = .next t) : LifecycleKeeps .init s t := by
  cases l <;> simp only [initLine, regWrite_cr] at h
  case i1 => split at h <;> cases h; exact .quiet rfl rfl
  case i2 => split at h <;> cases h <;> exact .quiet rfl rfl
  case i3 | i4 | i5 | i6 | i7 => cases h; exact .binds rfl rfl
  case i8 => exact callSub_lifecycleKeeps h
  case i9 => cases h; exact .resets nofun rfl rfl
  case i10 => cases h; exact .quiet rfl rfl

theorem hostLine_lifecycleKeeps {l : HostLine} {s t : State} (hl : l.command ∈ lifecycleCommands)
    (h : hostLine l s = .next t) : LifecycleKeeps l.command s t := by
  cases l
  case abort => exact abortLine_lifecycleKeeps h
  case reset => exact resetLine_lifecycleKeeps h
  case init => exact initLine_lifecycleKeeps h
  all_goals exact absurd hl (by simp [HostLine.command, lifecycleCommands])

/-! ### Where the meaning of a lifecycle command ends -/

/-- The only sub-sequence a lifecycle command calls is `AbortSeq`. -/
theorem hostCalls_lifecycle {l : HostLine} {q : SubSequence} (hl : l.command ∈ lifecycleCommands)
    (h : hostCalls l = some q) : q = .abortSeq := by
  cases l
  case abort l | reset l | init l =>
    cases l <;> cases h
    rfl
  all_goals exact absurd hl (by simp [HostLine.command, lifecycleCommands])

/-- A line of the Host that is not `D4` stores nothing, so it keeps the frame. -/
theorem lineStep_hostFrame {s t : State} (hn : ¬AtStore .host s) (h : lineStep .host s = .next t) : HostFrame s t := by
  have hmem : t.mem = s.mem := (lineStep_mem h).resolve_right fun hd => hn hd.1
  have hf := lineStep_frame h
  obtain ⟨ha, hpc, hloc⟩ := hf.other
  exact ⟨hf.params, fun a => by rw [hmem], hf.stream, ha, hpc, hloc, hf.schedule, hf.trace⟩

/-- A running line of a lifecycle command, at a legal position, is one of its own or one of `AbortSeq`. -/
theorem lineStep_lifecycle {c : Command} {s t : State} (hc : c ∈ lifecycleCommands) (hp : s.hostPc.command = some c)
    (hok : hostPositionOk s.hostPc = true) (h : lineStep .host s = .next t) : HostFrame s t ∧ LifecycleKeeps c s t := by
  cases hpc : s.hostPc with
  | idle => simp [hpc, HostPc.command] at hp
  | line l =>
    obtain rfl : l.command = c := by simpa [hpc, HostPc.command] using hp
    have hl : hostLine l s = .next t := by simpa [lineStep, hostStep, hpc] using h
    exact ⟨hostLine_hostFrame hpc hl, hostLine_lifecycleKeeps hc hl⟩
  | sub l q =>
    obtain rfl : l.command = c := by simpa [hpc, HostPc.command] using hp
    have hq : q.sequence = .abortSeq := hostCalls_lifecycle hc (by simpa [hpc, hostPositionOk] using hok)
    have hn : ¬AtStore .host s := by
      rintro ⟨d, hd⟩
      obtain ⟨-, rfl⟩ : l = d ∧ q = .d4 := by simpa [hpc] using hd
      cases hq
    exact ⟨lineStep_hostFrame hn h, subLine_lifecycleKeeps hq ((lineStep_host_sub hpc).symm.trans h)⟩

/-- What holds while the lines of a lifecycle command run from `s`. -/
structure InLifecycle (i : Instr) (s u : State) : Prop where
  frame : HostFrame s u
  keeps : LifecycleKeeps i.command s u
  inCommand : InCommand i s.engine.baseAddress u
  position : hostPositionOk u.hostPc = true

theorem InLifecycle.line {i : Instr} {s u v : State} (hi : i.command ∈ lifecycleCommands) (hu : InLifecycle i s u)
    (hr : running .host u = true) (h : lineStep .host u = .next v) : InLifecycle i s v := by
  have hni : u.hostPc ≠ .idle := by simpa [running] using hr
  obtain ⟨hc, -⟩ := hu.inCommand.control.resolve_left hni
  obtain ⟨hf, hk⟩ := lineStep_lifecycle hi hc hu.position h
  exact ⟨hu.frame.trans hf, hu.keeps.trans hk, hu.inCommand.line hr h, (hostStep_move hr h).control.positionOk hu.position⟩

/-- Wherever a lifecycle command's meaning ends, its frame holds. -/
theorem exec_lifecycle {i : Instr} {s t : State} (hi : i.command ∈ lifecycleCommands) (h : exec i s = .next t) :
    HostFrame s t ∧ LifecycleKeeps i.command s t := by
  rcases exec_next h with ⟨rfl, -⟩ | ⟨l, hl, h⟩
  · exact absurd hi (by decide)
  · obtain ⟨-, u, hu, hrun⟩ := issue_next h
    have hcommand : (HostPc.line l).command = some i.command := by cases i <;> cases hl <;> rfl
    have hstart : InLifecycle i s (started (operands i) l s) :=
      ⟨started_hostFrame _ l s, .quiet rfl rfl, ⟨.inr ⟨hcommand, rfl⟩, .inl rfl⟩, rfl⟩
    have hend : InLifecycle i s t := runAhead_keeps (fun _ _ hu hr hl => hu.line hi hr hl) (hstart.line hi rfl hu) hrun
    exact ⟨hend.frame, hend.keeps⟩

/-- Settles O28: the frame of the three commands, read for each. -/
theorem lifecycleCommandsFrame : Obligations.LifecycleCommandsFrame := by
  unfold Obligations.LifecycleCommandsFrame
  refine fun s t => ⟨fun h => ?_, fun h => ?_, fun base h => ?_⟩
  · obtain ⟨hf, hk⟩ := exec_lifecycle (i := .abort) (by decide) h
    have hcr : t.dev.cr = s.dev.cr := hk.cr.resolve_right fun hreset => hreset.1 rfl
    have hdev := hk.dev
    rw [hcr] at hdev
    exact ⟨hf, hdev, hk.engine nofun⟩
  · obtain ⟨hf, hk⟩ := exec_lifecycle (i := .reset) (by decide) h
    exact ⟨hf, hk.dev, hk.cr.imp_right And.right, hk.engine nofun⟩
  · obtain ⟨hf, hk⟩ := exec_lifecycle (i := .init base) (by simp [Instr.command, lifecycleCommands]) h
    exact ⟨hf, hk.dev, hk.cr.imp_right And.right, hk.total⟩

end Sys2Proof.Machine
end

section
/-! SUPPORT. The steps of the Device and of the Far end as equations, with the frame they share (R291, R292, R294, R295), and
the trap entry on an enabled device (R341). -/

namespace Sys2Proof.Machine

/-! ### The equations -/

/-- Of the register block, a received byte changes the RX FIFO, or RXOVR where the FIFO is full (R291, R292). -/
theorem receive_eq (depth : Nat) (b : Byte) (d : Dev) :
    receive depth b d = { d with
      rxFifo := if d.rxFifo.length = depth then d.rxFifo else d.rxFifo ++ [b]
      rxovr := if d.rxFifo.length = depth then true else d.rxovr } := by
  unfold receive
  split <;> rfl

theorem disarmIfEmpty_eq (d : Dev) :
    disarmIfEmpty d = { d with startArmed := if d.txFifo = [] then false else d.startArmed } := by
  unfold disarmIfEmpty
  split <;> rfl

theorem masterExchange_nil {s : State} (h : s.dev.txFifo = []) (response : Byte) : masterExchange response s = s := by
  simp only [masterExchange, h]

/-- A master exchange with a byte queued (R291). -/
theorem masterExchange_cons {s : State} {out : Byte} {rest : List Byte} (h : s.dev.txFifo = out :: rest)
    (response : Byte) :
    masterExchange response s = { s with
      dev := { s.dev with
        txFifo := rest
        rxFifo := if s.dev.rxFifo.length = fifoDepth s.params then s.dev.rxFifo else s.dev.rxFifo ++ [response]
        rxovr := if s.dev.rxFifo.length = fifoDepth s.params then true else s.dev.rxovr
        startArmed := if rest = [] then false else s.dev.startArmed }
      trace := s.trace ++ [.xchg out response (some (crSs s.dev.cr))] } := by
  simp only [masterExchange, h, receive_eq, disarmIfEmpty_eq]
  rfl

/-- A slave exchange, with a byte queued or with an underrun (R292). -/
theorem slaveExchange_eq (idle master : Byte) (s : State) :
    slaveExchange idle master s = { s with
      dev := { s.dev with
        txFifo := s.dev.txFifo.tail
        txuf := if s.dev.txFifo = [] then true else s.dev.txuf
        rxFifo := if s.dev.rxFifo.length = fifoDepth s.params then s.dev.rxFifo else s.dev.rxFifo ++ [master]
        rxovr := if s.dev.rxFifo.length = fifoDepth s.params then true else s.dev.rxovr }
      trace := s.trace ++ [.xchg (s.dev.txFifo.head?.getD idle) master none] } := by
  rcases htx : s.dev.txFifo with _ | ⟨out, rest⟩ <;>
    simp [slaveExchange, htx, receive_eq, log]

/-! ### The frame -/

/-- What every step of the Device and of the Far end leaves alone (R295). -/
structure DeviceFrame (s t : State) : Prop where
  others : t = { s with dev := t.dev, trace := t.trace }
  cr : t.dev.cr = s.dev.cr
  en : t.dev.en = s.dev.en
  imr : t.dev.imr = s.dev.imr
  rxovr : s.dev.rxovr = true → t.dev.rxovr = true
  modf : s.dev.modf = true → t.dev.modf = true
  txuf : s.dev.txuf = true → t.dev.txuf = true
  trace : s.trace <+: t.trace

theorem DeviceFrame.refl (s : State) : DeviceFrame s s := ⟨rfl, rfl, rfl, rfl, id, id, id, List.prefix_rfl⟩

theorem masterExchange_deviceFrame (response : Byte) (s : State) : DeviceFrame s (masterExchange response s) := by
  cases htx : s.dev.txFifo with
  | nil => rw [masterExchange_nil htx]; exact .refl s
  | cons out rest =>
    rw [masterExchange_cons htx]
    exact ⟨rfl, rfl, rfl, rfl, fun h => by simp [h], id, id, List.prefix_append _ _⟩

theorem slaveExchange_deviceFrame (idle master : Byte) (s : State) : DeviceFrame s (slaveExchange idle master s) := by
  rw [slaveExchange_eq]
  exact ⟨rfl, rfl, rfl, rfl, fun h => by simp [h], id, fun h => by simp [h], List.prefix_append _ _⟩

theorem modeFault_deviceFrame (s : State) : DeviceFrame s (modeFault s) :=
  ⟨rfl, rfl, rfl, rfl, id, fun _ => rfl, id, List.prefix_append _ _⟩

/-! ### The statements -/

/-- Settles O25: an enabled device can step, so of the activation `exec` runs the trap entry and no line. -/
theorem irqEntersHandler : Obligations.IrqEntersHandler := by
  unfold Obligations.IrqEntersHandler
  intro s hstart hen
  have hstop : otherEnabled (trapEntry s) = true := by simp [otherEnabled_eq, hen]
  calc exec .irq s
      = runAhead .handler (aheadBound s) (trapEntry s) := if_pos hstart
    _ = .next (trapEntry s) := runAhead_stop (.inr hstop) _

/-- Settles O41: the equations of the two exchanges. -/
theorem exchangeMovesOneByte : Obligations.ExchangeMovesOneByte := by
  unfold Obligations.ExchangeMovesOneByte
  exact ⟨fun _ _ response _ htx => masterExchange_cons htx response, fun s idle master => slaveExchange_eq idle master s⟩

/-- Settles O42: a mode fault is its definition, and each of the three steps keeps the frame. -/
theorem deviceStepsFrame : Obligations.DeviceStepsFrame := by
  unfold Obligations.DeviceStepsFrame
  refine ⟨fun _ => rfl, fun s t b idle master ht => ?_⟩
  have hframe : DeviceFrame s t := by
    rcases ht with rfl | rfl | rfl
    · exact masterExchange_deviceFrame b s
    · exact slaveExchange_deviceFrame idle master s
    · exact modeFault_deviceFrame s
  obtain ⟨hothers, hcr, hen, himr, hrxovr, hmodf, htxuf, htrace⟩ := hframe
  exact ⟨hothers, hcr, hen, himr, hrxovr, hmodf, htxuf, htrace⟩

end Sys2Proof.Machine
end

section
/-! SUPPORT. Where a Host command stops with a fault: the first line of every command but `INIT` before the engine is ready
(R321), and the operand checks of the transfers, `SET_SS`, `SET_STATUS_HANDLER` and `INIT` (R322 to R325, R327, R328, R339). -/

namespace Sys2Proof.Machine

/-! ### Runs and issues that fault -/

theorem runLines_fault {a : Agent} {s : State} {f : Fault} (hr : running a s = true) (hl : lineStep a s = .fault f)
    (n : Nat) : runLines a (n + 1) s = .fault f := by
  simp [runLines, hr, hl]

/-- A command whose lines lead to a line that faults faults there, however many more lines are asked for. -/
theorem commandLines_fault {i : Instr} {l l' : HostLine} {m n : Nat} {s u t : State} {f : Fault} (hi : firstLine i = some l)
    (hu : u = started (operands i) l s) (h : Runs True .host m u t) (hp : t.hostPc = .line l') (hf : hostLine l' t = .fault f)
    (hn : m < n) : commandLines i n s = .fault f := by
  obtain ⟨k, rfl⟩ := Nat.exists_eq_add_of_lt hn
  have hrun : running .host t = true := by simp [running, hp]
  have hline : lineStep .host t = .fault f := by simp [lineStep, hostStep, hp, hf]
  calc commandLines i (m + k + 1) s
      = runLines .host (m + (k + 1)) u := by simp only [commandLines, hi, hu, Nat.add_assoc]
    _ = runLines .host (k + 1) t := h.lines _
    _ = .fault f := runLines_fault hrun hline k

/-- A free Host's command faults where its first line does. -/
theorem issue_fault {o : HostOps} {l : HostLine} {s : State} {f : Fault} (hs : HostFree s)
    (h : hostLine l (started o l s) = .fault f) : issue o l s = .fault f := by
  have hstep : hostStep (started o l s) = .fault f := h
  obtain ⟨hidle, hactive⟩ := hs
  simp [issue, hidle, hactive, hstep]

/-! ### Before `INIT` -/

theorem checkReady_fault {s : State} (h : s.engine.isReady = false) (r : Result) :
    checkReady s r = .fault (.notReady s) := by
  simp [checkReady, h]

/-- The first line of every command but `INIT` is the check of `isReady` (R36, R321). -/
theorem hostLine_notReady {i : Instr} {l : HostLine} {s : State} (hl : firstLine i = some l) (hi : i.command ≠ .init)
    (h : s.engine.isReady = false) : hostLine l s = .fault (.notReady s) := by
  cases i with
  | init => exact absurd rfl hi
  | irq => cases hl
  | _ => cases hl; exact checkReady_fault h _

/-- No buffer is refused before the engine has a base address, so every Host command is issued (R101, R331). -/
theorem exec_issue_notReady {i : Instr} {s : State} (hi : hostCommand i = true) (h : s.engine.isReady = false) :
    ∃ l, firstLine i = some l ∧ exec i s = issue (operands i) l s := by
  have hclear : ∀ o, inRegisterBlock s.engine o = false := by simp [inRegisterBlock, h]
  cases i with
  | irq => cases hi
  | polledTransfer | transfer => exact ⟨_, rfl, issueTransfer_clear (hclear _) _⟩
  | _ => exact ⟨_, rfl, rfl⟩

/-- Settles O31: the command is issued, and its first line is the check that fails. -/
theorem notReadyFaultsBeforeInit : Obligations.NotReadyFaultsBeforeInit := by
  unfold Obligations.NotReadyFaultsBeforeInit
  intro s i hs hready hcmd hi
  obtain ⟨l, hl, hexec⟩ := exec_issue_notReady hcmd hready
  have hfault : hostLine l (started (operands i) l s) = .fault (.notReady (started (operands i) l s)) :=
    hostLine_notReady hl hi hready
  exact ⟨_, l, hexec.trans (issue_fault hs hfault), hl, rfl, rfl, rfl, rfl, rfl⟩

/-! ### The transfers' preconditions -/

section

variable {C : Prop} {k : TransferKind} {s : State}

/-- `P1`, `T1`: a ready engine comes to the check of the send buffer. -/
theorem transferReadyCheck_runs (hp : s.hostPc = .line (k.line .checkReady)) (hready : s.engine.isReady = true) :
    Runs C .host 1 s (goHost (k.line .checkSend) s) :=
  .hostLine hp ((k.hostLine_eq .checkReady s).trans (if_pos hready)) rfl

/-- `P2`, `T2`: with a send buffer, on to the check of the count. -/
theorem transferSendCheck_runs (hp : s.hostPc = .line (k.line .checkReady)) (hready : s.engine.isReady = true)
    (hsend : s.hostOps.send ≠ none) : Runs C .host 2 s (goHost (k.line .checkCount) s) :=
  (transferReadyCheck_runs hp hready).trans (.hostLine rfl ((k.hostLine_eq .checkSend _).trans (if_neg hsend)) rfl)

/-- `P3`, `T3`: with a count above 0, on to the check of the ranges. -/
theorem transferCountCheck_runs (hp : s.hostPc = .line (k.line .checkReady)) (hready : s.engine.isReady = true)
    (hsend : s.hostOps.send ≠ none) (hcount : s.hostOps.count ≠ 0#32) :
    Runs C .host 3 s (goHost (k.line .checkWrap) s) :=
  (transferSendCheck_runs hp hready hsend).trans
    (.hostLine rfl ((k.hostLine_eq .checkCount _).trans (if_neg hcount)) rfl)

end

/-- Each check of a transfer is reached where those before it are met, and faults where its own is not (R339). -/
theorem transferPreconditions_fault {k : TransferKind} {i : Instr} {s : State} {txv rxv : Bool} {send recv count : Word}
    (hi : firstLine i = some (k.line .checkReady)) (ho : operands i = transferOps txv rxv send recv count)
    (hready : s.engine.isReady = true) :
    (txv = false → ∃ left, commandLines i 4 s = .fault (.nullSendBuffer left)) ∧
    (txv = true → count = 0#32 → ∃ left, commandLines i 4 s = .fault (.zeroCount left)) ∧
    (txv = true → count ≠ 0#32 →
      bufWraps send.toNat count.toNat = true ∨ bufferWraps (bufferOperand rxv recv) count.toNat = true →
      ∃ left, commandLines i 4 s = .fault (.bufferWrap left)) := by
  obtain ⟨u, hu⟩ : ∃ u, u = started (operands i) (k.line .checkReady) s := ⟨_, rfl⟩
  have hp : u.hostPc = .line (k.line .checkReady) := by rw [hu]; rfl
  have hur : u.engine.isReady = true := by rw [hu]; exact hready
  have hops : u.hostOps = transferOps txv rxv send recv count := by rw [hu, ← ho]; rfl
  have hpresent (htx : txv = true) : u.hostOps.send = some send.toNat := by simp [hops, transferOps, bufferOperand, htx]
  have hsend (htx : txv = true) : u.hostOps.send ≠ none := by simp [hpresent htx]
  refine ⟨fun htx => ?_, fun htx hcount => ?_, fun htx hcount hwrap => ?_⟩
  · have habsent : u.hostOps.send = none := by simp [hops, transferOps, bufferOperand, htx]
    exact ⟨_, commandLines_fault hi hu (transferReadyCheck_runs hp hur) rfl
      ((k.hostLine_eq .checkSend _).trans (if_pos habsent)) (by omega)⟩
  · have hzero : u.hostOps.count = 0#32 := by rw [hops]; exact hcount
    exact ⟨_, commandLines_fault hi hu (transferSendCheck_runs hp hur (hsend htx)) rfl
      ((k.hostLine_eq .checkCount _).trans (if_pos hzero)) (by omega)⟩
  · have hnonzero : u.hostOps.count ≠ 0#32 := by rw [hops]; exact hcount
    have hpast : (bufferWraps u.hostOps.send u.hostOps.count.toNat ||
        bufferWraps u.hostOps.recv u.hostOps.count.toNat) = true := by
      rw [hpresent htx, hops]
      exact Bool.or_eq_true_iff.2 hwrap
    exact ⟨_, commandLines_fault hi hu (transferCountCheck_runs hp hur (hsend htx) hnonzero) rfl
      ((k.hostLine_eq .checkWrap _).trans (if_pos hpast)) (by omega)⟩

/-- Settles O32: the checks are the same for both transfers. -/
theorem transferPreconditionsInOrder : Obligations.TransferPreconditionsInOrder := by
  unfold Obligations.TransferPreconditionsInOrder
  intro s i txv rxv send recv count hready hi
  rcases hi with rfl | rfl
  · exact transferPreconditions_fault (k := .polled) rfl rfl hready
  · exact transferPreconditions_fault (k := .interrupt) rfl rfl hready

/-! ### Bad operands -/

/-- Settles O33: `S2`, `K2` and `I1` are the checks that fail. -/
theorem badOperandsFault : Obligations.BadOperandsFault := by
  unfold Obligations.BadOperandsFault
  intro s
  refine ⟨fun idx hready hidx => ?_, fun ctx hready => ?_, fun base hs hbase => ⟨_, issue_fault hs (if_pos hbase)⟩⟩
  · have hs1 : Runs True .host 1 (started (setSsOps idx) (.setSs .s1) s)
        (goHost (.setSs .s2) (started (setSsOps idx) (.setSs .s1) s)) :=
      .hostLine rfl (if_pos hready) rfl
    exact ⟨_, commandLines_fault (i := .setSs idx) rfl rfl hs1 rfl (if_neg (Bool.eq_false_iff.1 hidx)) (by omega)⟩
  · have hk1 : Runs True .host 1 (started (setStatusHandlerOps 0#32 ctx) (.setStatusHandler .k1) s)
        (goHost (.setStatusHandler .k2) (started (setStatusHandlerOps 0#32 ctx) (.setStatusHandler .k1) s)) :=
      .hostLine rfl (if_pos hready) rfl
    exact ⟨_, commandLines_fault (i := .setStatusHandler 0#32 ctx) rfl rfl hk1 rfl rfl (by omega)⟩

end Sys2Proof.Machine
end

section
/-! SUPPORT. A line that faults leaves the state it began in (R320, R345), and which lines fault for a missing callback (R326)
and for a counter that would go below 0 (R330). -/

namespace Sys2Proof.Machine

/-! ### What a fault of a line leaves -/

/-- If this is what a line that began in `s` answers, a fault in it leaves `s`. -/
def FaultLeaves (s : State) : Result → Prop
  | .fault f => faultLeft f = s
  | .next _ | .refused _ => True

theorem FaultLeaves.ite {s : State} {c : Prop} [Decidable c] {x y : Result} (hx : FaultLeaves s x) (hy : FaultLeaves s y) :
    FaultLeaves s (if c then x else y) := by
  split
  · exact hx
  · exact hy

theorem memRead_faultLeaves {a : Nat} {s : State} {k : Byte → State → Result} (hk : ∀ b t, FaultLeaves s (k b t)) :
    FaultLeaves s (memRead a s k) :=
  .ite rfl (.ite trivial (hk _ _))

theorem memWrite_faultLeaves {a : Nat} {v : Byte} {s : State} {k : State → Result} (hk : ∀ t, FaultLeaves s (k t)) :
    FaultLeaves s (memWrite a v s k) :=
  .ite rfl (.ite trivial (hk _))

theorem regWrite_faultLeaves {off v : Word} {s : State} {k : State → Result} (hk : ∀ t, FaultLeaves s (k t)) :
    FaultLeaves s (regWrite off v s k) := by
  unfold regWrite
  split
  · trivial
  · exact .ite rfl (hk _)

theorem callback_faultLeaves {kind : EventKind} {count : Word} {s : State} {k : State → Result}
    (hk : ∀ t, FaultLeaves s (k t)) : FaultLeaves s (callback kind count s k) := by
  unfold callback
  split
  · rfl
  · exact hk _

theorem diff_faultLeaves {s : State} {k : Word → Result} (hk : ∀ v, FaultLeaves s (k v)) : FaultLeaves s (diff s k) :=
  .ite rfl (hk _)

theorem checkReady_faultLeaves {s t : State} : FaultLeaves s (checkReady s (.next t)) := .ite trivial rfl

theorem subLine_faultLeaves (a : Agent) (q : SubLine) (s : State) : FaultLeaves s (subLine a q s) := by
  cases q
  case f2 | d1 | m2 | c2 | a4 => exact .ite trivial trivial
  case f6 | d6 => exact .ite rfl trivial
  case f3 =>
    simp only [subLine, fillF3]
    split
    · rfl
    · exact memRead_faultLeaves fun _ _ => trivial
  case f4 =>
    simp only [subLine, fillF4]
    exact regWrite_faultLeaves fun _ => trivial
  case d3 =>
    simp only [subLine, drainD3]
    split <;> trivial
  case d4 =>
    simp only [subLine, drainD4]
    split
    · trivial
    · exact memWrite_faultLeaves fun _ => trivial
  all_goals trivial

/-- The first line of a sub-sequence never faults, so nothing is left of the move to it. -/
theorem callSub_faultLeaves (a : Agent) (q : SubSequence) (s : State) : FaultLeaves s (callSub a q.first s) := by
  cases q
  case drain => exact .ite trivial trivial
  all_goals trivial

theorem hostLine_faultLeaves (l : HostLine) (s : State) : FaultLeaves s (hostLine l s) := by
  cases l with
  | init l =>
    cases l
    case i1 => exact .ite rfl trivial
    case i2 => exact .ite trivial trivial
    case i8 => exact callSub_faultLeaves _ .abortSeq _
    all_goals trivial
  | setStatusHandler l =>
    cases l
    case k1 => exact checkReady_faultLeaves
    case k2 => exact .ite rfl trivial
    all_goals trivial
  | setSs l =>
    cases l
    case s1 => exact checkReady_faultLeaves
    case s2 => exact .ite trivial rfl
    case s3 => exact .ite trivial trivial
    all_goals trivial
  | getSs l =>
    cases l
    case g1 => exact checkReady_faultLeaves
    case g2 => trivial
  | polled l =>
    cases l
    case p1 => exact checkReady_faultLeaves
    case p2 | p3 | p4 => exact .ite rfl trivial
    case p5 | p10 | p13 | p17 => exact .ite trivial trivial
    case p14 => exact callSub_faultLeaves _ .fill _
    case p15 => exact callSub_faultLeaves _ .startIfManual _
    case p18 => exact callSub_faultLeaves _ .drain _
    case p20 => exact callSub_faultLeaves _ .deassertIfManual _
    all_goals trivial
  | transfer l =>
    cases l
    case t1 => exact checkReady_faultLeaves
    case t2 | t3 | t4 => exact .ite rfl trivial
    case t5 | t10 => exact .ite trivial trivial
    case t13 => exact callSub_faultLeaves _ .fill _
    case t16 => exact callSub_faultLeaves _ .startIfManual _
    all_goals trivial
  | abort l =>
    cases l
    case a1 => exact checkReady_faultLeaves
    case a2 => exact callSub_faultLeaves _ .abortSeq _
    case a10 => trivial
  | reset l =>
    cases l
    case x1 => exact checkReady_faultLeaves
    case x2 => exact callSub_faultLeaves _ .abortSeq _
    all_goals trivial
  | configure l =>
    cases l
    case n1 => exact checkReady_faultLeaves
    case n2 => exact .ite trivial trivial
    all_goals trivial

theorem handlerLine_faultLeaves (l : HandlerLine) (s : State) : FaultLeaves s (handlerLine l s) := by
  cases l
  case h4 | h8 | h12 | h20 | h25 => exact .ite trivial trivial
  case h5 | h9 | h21 | h26 =>
    simp only [handlerLine]
    exact diff_faultLeaves fun _ => trivial
  case h7 | h17 | h24 | h29 =>
    simp only [handlerLine]
    exact callback_faultLeaves fun _ => trivial
  case h6 => exact callSub_faultLeaves _ .abortSeq _
  case h10 => exact callSub_faultLeaves _ .drain _
  case h11 => exact callSub_faultLeaves _ .fill _
  case h14 | h23 | h28 => exact callSub_faultLeaves _ .deassertIfManual _
  case h19 => exact callSub_faultLeaves _ .startIfManual _
  all_goals trivial

theorem lineStep_faultLeaves (a : Agent) (s : State) : FaultLeaves s (lineStep a s) := by
  cases a with
  | host =>
    simp only [lineStep, hostStep]
    split
    · trivial
    · exact hostLine_faultLeaves _ _
    · exact subLine_faultLeaves _ _ _
  | handler =>
    simp only [lineStep, handlerStep]
    split
    · exact handlerLine_faultLeaves _ _
    · exact subLine_faultLeaves _ _ _

/-! ### The lines that fault -/

theorem lineStep_handler_line {l : HandlerLine} {s : State} (h : s.handlerPc = .line l) :
    lineStep .handler s = handlerLine l s := by
  simp [lineStep, handlerStep, h]

/-- Whichever line called it, the line of the sub-sequence comes next (R180). -/
theorem lineStep_atSub {a : Agent} {q : SubLine} {s : State} (h : AtSub a q s) : lineStep a s = subLine a q s := by
  cases a with
  | host => obtain ⟨c, hc⟩ := h; exact lineStep_host_sub hc
  | handler => obtain ⟨c, hc⟩ := h; simp [lineStep, handlerStep, hc]

theorem callback_stub {s : State} (h : s.engine.statusCallback = .stub) (kind : EventKind) (count : Word)
    (k : State → Result) : callback kind count s k = .fault (.stubCallback s) := by
  simp [callback, h]

/-- The four callback lines (R326). -/
theorem handlerLine_stubCallback {l : HandlerLine} {s : State} (hl : l ∈ [HandlerLine.h7, .h17, .h24, .h29])
    (h : s.engine.statusCallback = .stub) : handlerLine l s = .fault (.stubCallback s) := by
  simp only [List.mem_cons, List.not_mem_nil, or_false] at hl
  rcases hl with rfl | rfl | rfl | rfl <;> simp only [handlerLine, callback_stub h]

/-- The four lines that take a difference (R330). -/
theorem handlerLine_counterUnderflow {l : HandlerLine} {s : State} (hl : l ∈ [HandlerLine.h5, .h9, .h21, .h26])
    (h : s.engine.requestedBytes < s.engine.remainingBytes) : handlerLine l s = .fault (.counterUnderflow s) := by
  simp only [List.mem_cons, List.not_mem_nil, or_false] at hl
  rcases hl with rfl | rfl | rfl | rfl <;> exact if_pos h

/-- Settles O35: every line's faults carry the state it began in, and the named lines fault. -/
theorem faultingLineHasNoEffect : Obligations.FaultingLineHasNoEffect := by
  unfold Obligations.FaultingLineHasNoEffect
  refine ⟨fun a s f h => ?_, fun s l hp hl hstub => ?_, fun s l hp hl hlt => ?_, fun a s hp hreq => ?_⟩
  · have hleaves := lineStep_faultLeaves a s
    rwa [h] at hleaves
  · exact (lineStep_handler_line hp).trans (handlerLine_stubCallback hl hstub)
  · exact (lineStep_handler_line hp).trans (handlerLine_counterUnderflow hl hlt)
  · exact (lineStep_atSub hp).trans (if_pos hreq)

end Sys2Proof.Machine
end
